-- ==== Sys2Proof/Word.lean ====
section
/-! DEFINITION. The word types of the machine: bytes, 16-bit words, register numbers (R4, R5). -/

namespace Sys2Proof

/-- An 8-bit value: a V register, a memory cell, an immediate (R4: XLEN = 8). -/
abbrev Byte := BitVec 8

/-- A 16-bit value: an instruction word, `I`, `PC`, a stack entry (R4). -/
abbrev Word := BitVec 16

/-- The number of a V register, 0..15: a 4-bit field can name nothing else (R11, R63). -/
abbrev Reg := Fin 16

end Sys2Proof
end

