-- ==== Sys2Proof/Syntax.lean ====
section
/-! DEFINITION. The instructions, one constructor for each row of spec/opcode_table.json (R66, R67). Bits a row ignores are
kept as an argument, so that an instruction is exactly one word (R64, R68; log 15). -/

namespace Sys2Proof

/-- An instruction. `x`, `y` are register numbers, `kk` the 8-bit immediate, `nnn` the 12-bit address, `n` the row count (R61). -/
inductive Instr where
  /-- `00E0` (R130); bits 11..8 are ignored (R64). -/
  | cls (ignored : BitVec 4)
  /-- `00EE` (R90); bits 11..8 are ignored (R64). -/
  | ret (ignored : BitVec 4)
  /-- `1nnn` (R91). -/
  | jpAddr (nnn : BitVec 12)
  /-- `2nnn` (R92). -/
  | callAddr (nnn : BitVec 12)
  /-- `3xkk` (R93). -/
  | seVxByte (x : Reg) (kk : Byte)
  /-- `4xkk` (R94). -/
  | sneVxByte (x : Reg) (kk : Byte)
  /-- `6xkk` (R101). -/
  | ldVxByte (x : Reg) (kk : Byte)
  /-- `7xkk` (R102). -/
  | addVxByte (x : Reg) (kk : Byte)
  /-- `8xy0` (R103). -/
  | ldVxVy (x y : Reg)
  /-- `8xy1` (R104). -/
  | orVxVy (x y : Reg)
  /-- `8xy2` (R105). -/
  | andVxVy (x y : Reg)
  /-- `8xy3` (R106). -/
  | xorVxVy (x y : Reg)
  /-- `8xy4` (R107). -/
  | addVxVy (x y : Reg)
  /-- `8xy5` (R108). -/
  | subVxVy (x y : Reg)
  /-- `8xy6` (R109). -/
  | shrVxVy (x y : Reg)
  /-- `8xyE` (R110). -/
  | shlVxVy (x y : Reg)
  /-- `Annn` (R120). -/
  | ldIAddr (nnn : BitVec 12)
  /-- `Cxkk` (R111). -/
  | rndVxByte (x : Reg) (kk : Byte)
  /-- `Dxyn` (R132). -/
  | drwVxVyN (x y : Reg) (n : BitVec 4)
  /-- `Ex9E` (R140). -/
  | skpVx (x : Reg)
  /-- `ExA1` (R141). -/
  | sknpVx (x : Reg)
  /-- `Fx07` (R142). -/
  | ldVxDt (x : Reg)
  /-- `Fx15` (R143). -/
  | ldDtVx (x : Reg)
  /-- `Fx18` (R144). -/
  | ldStVx (x : Reg)
  /-- `Fx29` (R121). -/
  | ldFVx (x : Reg)
  /-- `Fx33` (R122). -/
  | ldBVx (x : Reg)
  /-- `Fx55` (R123). -/
  | ldMemVx (x : Reg)
  /-- `Fx65` (R124). -/
  | ldVxMem (x : Reg)
  /-- Family 0x0, `imm8` not 0xE0 or 0xEE (R67, R150). -/
  | unlisted0 (ignored : BitVec 12)
  /-- Family 0x5, every word (R67, R150). -/
  | unlisted5 (ignored : BitVec 12)
  /-- Family 0x8, `subop4` none of 0..6, 0xE (R67, R150). -/
  | unlisted8 (ignored : BitVec 12)
  /-- Family 0x9, every word (R67, R150). -/
  | unlisted9 (ignored : BitVec 12)
  /-- Family 0xB, every word (R67, R150). -/
  | unlistedB (ignored : BitVec 12)
  /-- Family 0xE, `imm8` not 0x9E or 0xA1 (R67, R150). -/
  | unlistedE (ignored : BitVec 12)
  /-- Family 0xF, `imm8` none of the seven listed (R67, R150). -/
  | unlistedF (ignored : BitVec 12)
deriving DecidableEq, Repr

end Sys2Proof
end

