-- ==== Sys2Proof/WellFormed.lean ====
section
/-! DEFINITION. Which terms of `Instr` are instructions: an unlisted term must not carry the discriminator of a listed row
(R67). Every other constructor's arguments already have exactly the widths of their fields (R61, R63). -/

namespace Sys2Proof

/-- `imm8` of family 0x0 selects no row (R67). -/
def unlistedIn0 (imm8 : Byte) : Bool := imm8 != 0xE0 && imm8 != 0xEE

/-- `subop4` of family 0x8 selects no row (R67). -/
def unlistedIn8 (subop4 : BitVec 4) : Bool := 0x7#4 ≤ subop4 && subop4 != 0xE

/-- `imm8` of family 0xE selects no row (R67). -/
def unlistedInE (imm8 : Byte) : Bool := imm8 != 0x9E && imm8 != 0xA1

/-- `imm8` of family 0xF selects no row (R67). -/
def unlistedInF (imm8 : Byte) : Bool :=
  imm8 != 0x07 && imm8 != 0x15 && imm8 != 0x18 && imm8 != 0x29 && imm8 != 0x33 && imm8 != 0x55 && imm8 != 0x65

/-- The term stands for a word of its row. -/
def Instr.wellFormed : Instr → Bool
  | .unlisted0 ignored => unlistedIn0 (ignored.setWidth 8)
  | .unlisted8 ignored => unlistedIn8 (ignored.setWidth 4)
  | .unlistedE ignored => unlistedInE (ignored.setWidth 8)
  | .unlistedF ignored => unlistedInF (ignored.setWidth 8)
  | .cls _ | .ret _ | .jpAddr _ | .callAddr _ | .seVxByte _ _ | .sneVxByte _ _ | .ldVxByte _ _ | .addVxByte _ _
  | .ldVxVy _ _ | .orVxVy _ _ | .andVxVy _ _ | .xorVxVy _ _ | .addVxVy _ _ | .subVxVy _ _ | .shrVxVy _ _ | .shlVxVy _ _
  | .ldIAddr _ | .rndVxByte _ _ | .drwVxVyN _ _ _ | .skpVx _ | .sknpVx _ | .ldVxDt _ | .ldDtVx _ | .ldStVx _ | .ldFVx _
  | .ldBVx _ | .ldMemVx _ | .ldVxMem _ | .unlisted5 _ | .unlisted9 _ | .unlistedB _ => true

end Sys2Proof
end

