-- ==== Sys2Proof/Decode.lean ====
section
/-! DEFINITION. Decoding and encoding (R60 to R70): the six fields of a word, the total decoder of R65, the decoder of bytes,
the encoder from the same map, the opcode map's masks, and the names of R70. -/

namespace Sys2Proof

/-- Bits 15..12 (R61): the family. -/
def opclass (op : Word) : BitVec 4 := op.extractLsb' 12 4

/-- Bits 11..8 as bits (R61): the first register field, or the ignored bits of family 0x0 (R64). -/
def bits11to8 (op : Word) : BitVec 4 := op.extractLsb' 8 4

/-- `regX` (R61): bits 11..8 as a register number. -/
def regX (op : Word) : Reg := (bits11to8 op).toFin

/-- `regY` (R61): bits 7..4 as a register number. -/
def regY (op : Word) : Reg := (op.extractLsb' 4 4).toFin

/-- `subop4` (R61): bits 3..0. -/
def subop4 (op : Word) : BitVec 4 := op.extractLsb' 0 4

/-- `imm8` (R61): bits 7..0. -/
def imm8 (op : Word) : Byte := op.extractLsb' 0 8

/-- `addr12` (R61): bits 11..0. -/
def addr12 (op : Word) : BitVec 12 := op.extractLsb' 0 12

/-- Family 0x0 discriminates on `imm8` alone (R64, R65). -/
def decodeFamily0 (op : Word) : Instr :=
  if imm8 op = 0xE0#8 then .cls (bits11to8 op)
  else if imm8 op = 0xEE#8 then .ret (bits11to8 op)
  else .unlisted0 (addr12 op)

/-- Family 0x8 discriminates on `subop4` (R65). -/
def decodeFamily8 (op : Word) : Instr :=
  if subop4 op = 0x0#4 then .ldVxVy (regX op) (regY op)
  else if subop4 op = 0x1#4 then .orVxVy (regX op) (regY op)
  else if subop4 op = 0x2#4 then .andVxVy (regX op) (regY op)
  else if subop4 op = 0x3#4 then .xorVxVy (regX op) (regY op)
  else if subop4 op = 0x4#4 then .addVxVy (regX op) (regY op)
  else if subop4 op = 0x5#4 then .subVxVy (regX op) (regY op)
  else if subop4 op = 0x6#4 then .shrVxVy (regX op) (regY op)
  else if subop4 op = 0xE#4 then .shlVxVy (regX op) (regY op)
  else .unlisted8 (addr12 op)

/-- Family 0xE discriminates on `imm8` (R65). -/
def decodeFamilyE (op : Word) : Instr :=
  if imm8 op = 0x9E#8 then .skpVx (regX op)
  else if imm8 op = 0xA1#8 then .sknpVx (regX op)
  else .unlistedE (addr12 op)

/-- Family 0xF discriminates on `imm8` (R65). -/
def decodeFamilyF (op : Word) : Instr :=
  if imm8 op = 0x07#8 then .ldVxDt (regX op)
  else if imm8 op = 0x15#8 then .ldDtVx (regX op)
  else if imm8 op = 0x18#8 then .ldStVx (regX op)
  else if imm8 op = 0x29#8 then .ldFVx (regX op)
  else if imm8 op = 0x33#8 then .ldBVx (regX op)
  else if imm8 op = 0x55#8 then .ldMemVx (regX op)
  else if imm8 op = 0x65#8 then .ldVxMem (regX op)
  else .unlistedF (addr12 op)

/-- `decode(op)` of R65: total, no word is illegal, a function of the 16 bits alone (R69). -/
def decodeWord (op : Word) : Instr :=
  match (opclass op).toNat with
  | 0x0 => decodeFamily0 op
  | 0x1 => .jpAddr (addr12 op)
  | 0x2 => .callAddr (addr12 op)
  | 0x3 => .seVxByte (regX op) (imm8 op)
  | 0x4 => .sneVxByte (regX op) (imm8 op)
  | 0x5 => .unlisted5 (addr12 op)
  | 0x6 => .ldVxByte (regX op) (imm8 op)
  | 0x7 => .addVxByte (regX op) (imm8 op)
  | 0x8 => decodeFamily8 op
  | 0x9 => .unlisted9 (addr12 op)
  | 0xA => .ldIAddr (addr12 op)
  | 0xB => .unlistedB (addr12 op)
  | 0xC => .rndVxByte (regX op) (imm8 op)
  | 0xD => .drwVxVyN (regX op) (regY op) (subop4 op)
  | 0xE => decodeFamilyE op
  | _ => decodeFamilyF op -- 0xF, the one family left

/-- Why bytes are no instruction: only their number can be wrong, since every word decodes (R65). -/
inductive DecodeError where
  /-- Fewer than the two bytes of an instruction (R60). -/
  | truncated
deriving DecidableEq, Repr

/-- The word of two bytes in storage order, the high byte at the lower address (R48, R60). -/
def wordOfBytes (hi lo : Byte) : Word := hi ++ lo

/-- The instruction at the head of a list of bytes, and the bytes after it (R60). -/
def decode : List Byte → Except DecodeError (Instr × List Byte)
  | hi :: lo :: rest => .ok (decodeWord (wordOfBytes hi lo), rest)
  | [_] => .error .truncated
  | [] => .error .truncated

/-- A register number as a 4-bit field. -/
def regBits (r : Reg) : BitVec 4 := BitVec.ofFin r

/-- A word of format `NNN` (R62). -/
def formNNN (opclass : BitVec 4) (nnn : BitVec 12) : Word := opclass ++ nnn

/-- A word of format `XKK`, `XD8` or `_D8` (R62): a nibble at 11..8 and a byte at 7..0. -/
def formXKK (opclass : BitVec 4) (x : BitVec 4) (kk : Byte) : Word := opclass ++ x ++ kk

/-- A word of format `XYS` or `XYN` (R62): four nibbles. -/
def formXYN (opclass : BitVec 4) (x y n : BitVec 4) : Word := opclass ++ x ++ y ++ n

/-- The word of an instruction, from the opcode map (R66, R67). -/
def encode : Instr → Word
  | .cls ignored => formXKK 0x0 ignored 0xE0
  | .ret ignored => formXKK 0x0 ignored 0xEE
  | .jpAddr nnn => formNNN 0x1 nnn
  | .callAddr nnn => formNNN 0x2 nnn
  | .seVxByte x kk => formXKK 0x3 (regBits x) kk
  | .sneVxByte x kk => formXKK 0x4 (regBits x) kk
  | .ldVxByte x kk => formXKK 0x6 (regBits x) kk
  | .addVxByte x kk => formXKK 0x7 (regBits x) kk
  | .ldVxVy x y => formXYN 0x8 (regBits x) (regBits y) 0x0
  | .orVxVy x y => formXYN 0x8 (regBits x) (regBits y) 0x1
  | .andVxVy x y => formXYN 0x8 (regBits x) (regBits y) 0x2
  | .xorVxVy x y => formXYN 0x8 (regBits x) (regBits y) 0x3
  | .addVxVy x y => formXYN 0x8 (regBits x) (regBits y) 0x4
  | .subVxVy x y => formXYN 0x8 (regBits x) (regBits y) 0x5
  | .shrVxVy x y => formXYN 0x8 (regBits x) (regBits y) 0x6
  | .shlVxVy x y => formXYN 0x8 (regBits x) (regBits y) 0xE
  | .ldIAddr nnn => formNNN 0xA nnn
  | .rndVxByte x kk => formXKK 0xC (regBits x) kk
  | .drwVxVyN x y n => formXYN 0xD (regBits x) (regBits y) n
  | .skpVx x => formXKK 0xE (regBits x) 0x9E
  | .sknpVx x => formXKK 0xE (regBits x) 0xA1
  | .ldVxDt x => formXKK 0xF (regBits x) 0x07
  | .ldDtVx x => formXKK 0xF (regBits x) 0x15
  | .ldStVx x => formXKK 0xF (regBits x) 0x18
  | .ldFVx x => formXKK 0xF (regBits x) 0x29
  | .ldBVx x => formXKK 0xF (regBits x) 0x33
  | .ldMemVx x => formXKK 0xF (regBits x) 0x55
  | .ldVxMem x => formXKK 0xF (regBits x) 0x65
  | .unlisted0 ignored => formNNN 0x0 ignored
  | .unlisted5 ignored => formNNN 0x5 ignored
  | .unlisted8 ignored => formNNN 0x8 ignored
  | .unlisted9 ignored => formNNN 0x9 ignored
  | .unlistedB ignored => formNNN 0xB ignored
  | .unlistedE ignored => formNNN 0xE ignored
  | .unlistedF ignored => formNNN 0xF ignored

/-- The byte at the lower address (R48). -/
def highByte (op : Word) : Byte := op.extractLsb' 8 8

/-- The byte at the higher address (R48). -/
def lowByte (op : Word) : Byte := op.extractLsb' 0 8

/-- The two bytes of an instruction as memory stores them (R48, R60). -/
def encodeBytes (i : Instr) : List Byte := [highByte (encode i), lowByte (encode i)]

/-- The mask of the instruction's row of the opcode map: the bits that select the row (R62, R66). -/
def rowMask : Instr → Word
  | .cls _ | .ret _ | .skpVx _ | .sknpVx _ | .ldVxDt _ | .ldDtVx _ | .ldStVx _ | .ldFVx _ | .ldBVx _ | .ldMemVx _
  | .ldVxMem _ => 0xF0FF
  | .ldVxVy _ _ | .orVxVy _ _ | .andVxVy _ _ | .xorVxVy _ _ | .addVxVy _ _ | .subVxVy _ _ | .shrVxVy _ _
  | .shlVxVy _ _ => 0xF00F
  | .jpAddr _ | .callAddr _ | .seVxByte _ _ | .sneVxByte _ _ | .ldVxByte _ _ | .addVxByte _ _ | .ldIAddr _
  | .rndVxByte _ _ | .drwVxVyN _ _ _ | .unlisted0 _ | .unlisted5 _ | .unlisted8 _ | .unlisted9 _ | .unlistedB _
  | .unlistedE _ | .unlistedF _ => 0xF000

/-- The match value of the instruction's row of the opcode map (R66). -/
def rowMatch : Instr → Word
  | .cls _ => 0x00E0 | .ret _ => 0x00EE | .jpAddr _ => 0x1000 | .callAddr _ => 0x2000
  | .seVxByte _ _ => 0x3000 | .sneVxByte _ _ => 0x4000 | .ldVxByte _ _ => 0x6000 | .addVxByte _ _ => 0x7000
  | .ldVxVy _ _ => 0x8000 | .orVxVy _ _ => 0x8001 | .andVxVy _ _ => 0x8002 | .xorVxVy _ _ => 0x8003
  | .addVxVy _ _ => 0x8004 | .subVxVy _ _ => 0x8005 | .shrVxVy _ _ => 0x8006 | .shlVxVy _ _ => 0x800E
  | .ldIAddr _ => 0xA000 | .rndVxByte _ _ => 0xC000 | .drwVxVyN _ _ _ => 0xD000
  | .skpVx _ => 0xE09E | .sknpVx _ => 0xE0A1 | .ldVxDt _ => 0xF007 | .ldDtVx _ => 0xF015 | .ldStVx _ => 0xF018
  | .ldFVx _ => 0xF029 | .ldBVx _ => 0xF033 | .ldMemVx _ => 0xF055 | .ldVxMem _ => 0xF065
  | .unlisted0 _ => 0x0000 | .unlisted5 _ => 0x5000 | .unlisted8 _ => 0x8000 | .unlisted9 _ => 0x9000
  | .unlistedB _ => 0xB000 | .unlistedE _ => 0xE000 | .unlistedF _ => 0xF000

/-- The word selects no row of R66 (R67). -/
def Instr.isUnlisted : Instr → Bool
  | .unlisted0 _ | .unlisted5 _ | .unlisted8 _ | .unlisted9 _ | .unlistedB _ | .unlistedE _ | .unlistedF _ => true
  | .cls _ | .ret _ | .jpAddr _ | .callAddr _ | .seVxByte _ _ | .sneVxByte _ _ | .ldVxByte _ _ | .addVxByte _ _
  | .ldVxVy _ _ | .orVxVy _ _ | .andVxVy _ _ | .xorVxVy _ _ | .addVxVy _ _ | .subVxVy _ _ | .shrVxVy _ _ | .shlVxVy _ _
  | .ldIAddr _ | .rndVxByte _ _ | .drwVxVyN _ _ _ | .skpVx _ | .sknpVx _ | .ldVxDt _ | .ldDtVx _ | .ldStVx _ | .ldFVx _
  | .ldBVx _ | .ldMemVx _ | .ldVxMem _ => false

/-- The instruction an opcode-table word decodes to; a word of fewer than 16 bits has zeros above `nbits`, and no instruction
is longer than 16 bits (R60). -/
def decodeTableWord (nbits w : Nat) : Option Instr :=
  if nbits ≤ 16 then
    let op : Word := BitVec.ofNat 16 (w % 2 ^ nbits)
    match decode [highByte op, lowByte op] with
    | .ok (i, _) => some i
    | .error _ => none
  else none

/-- The pattern name of R66, the spec's identifier of an instruction (R70). -/
def Instr.patternName : Instr → String
  | .cls _ => "00E0" | .ret _ => "00EE" | .jpAddr _ => "1nnn" | .callAddr _ => "2nnn"
  | .seVxByte _ _ => "3xkk" | .sneVxByte _ _ => "4xkk" | .ldVxByte _ _ => "6xkk" | .addVxByte _ _ => "7xkk"
  | .ldVxVy _ _ => "8xy0" | .orVxVy _ _ => "8xy1" | .andVxVy _ _ => "8xy2" | .xorVxVy _ _ => "8xy3"
  | .addVxVy _ _ => "8xy4" | .subVxVy _ _ => "8xy5" | .shrVxVy _ _ => "8xy6" | .shlVxVy _ _ => "8xyE"
  | .ldIAddr _ => "Annn" | .rndVxByte _ _ => "Cxkk" | .drwVxVyN _ _ _ => "Dxyn"
  | .skpVx _ => "Ex9E" | .sknpVx _ => "ExA1" | .ldVxDt _ => "Fx07" | .ldDtVx _ => "Fx15" | .ldStVx _ => "Fx18"
  | .ldFVx _ => "Fx29" | .ldBVx _ => "Fx33" | .ldMemVx _ => "Fx55" | .ldVxMem _ => "Fx65"
  | .unlisted0 _ | .unlisted5 _ | .unlisted8 _ | .unlisted9 _ | .unlistedB _ | .unlistedE _ | .unlistedF _ => "UNLISTED"

/-- The assembler spelling of R70; unlisted words are written with the directive DW (R71). No behaviour depends on it. -/
def Instr.assembly : Instr → String
  | .cls _ => "CLS" | .ret _ => "RET" | .jpAddr _ => "JP addr" | .callAddr _ => "CALL addr"
  | .seVxByte _ _ => "SE Vx, byte" | .sneVxByte _ _ => "SNE Vx, byte" | .ldVxByte _ _ => "LD Vx, byte"
  | .addVxByte _ _ => "ADD Vx, byte" | .ldVxVy _ _ => "LD Vx, Vy" | .orVxVy _ _ => "OR Vx, Vy"
  | .andVxVy _ _ => "AND Vx, Vy" | .xorVxVy _ _ => "XOR Vx, Vy" | .addVxVy _ _ => "ADD Vx, Vy"
  | .subVxVy _ _ => "SUB Vx, Vy" | .shrVxVy _ _ => "SHR Vx, Vy" | .shlVxVy _ _ => "SHL Vx, Vy"
  | .ldIAddr _ => "LD I, addr" | .rndVxByte _ _ => "RND Vx, byte" | .drwVxVyN _ _ _ => "DRW Vx, Vy, n"
  | .skpVx _ => "SKP Vx" | .sknpVx _ => "SKNP Vx" | .ldVxDt _ => "LD Vx, DT" | .ldDtVx _ => "LD DT, Vx"
  | .ldStVx _ => "LD ST, Vx" | .ldFVx _ => "LD F, Vx" | .ldBVx _ => "LD B, Vx" | .ldMemVx _ => "LD [I], Vx"
  | .ldVxMem _ => "LD Vx, [I]"
  | .unlisted0 _ | .unlisted5 _ | .unlisted8 _ | .unlisted9 _ | .unlistedB _ | .unlistedE _ | .unlistedF _ => "DW word"

end Sys2Proof
end

