-- ==== Sys2Proof/Machine/Flags.lean ====
section
/-! DEFINITION. The flags (R12, R112): each is the 8-bit value 0x00 or 0x01 written to `V[0xF]`. -/

namespace Sys2Proof.Machine

/-- The register the flags are written to (R12). -/
def flagReg : Reg := 0xF

/-- A flag as `V[0xF]` holds it: 0x01 or 0x00, never only a bit of the register (R12). -/
def flagByte (flag : Bool) : Byte := if flag then 0x01 else 0x00

/-- The carry out of an 8-bit addition: bit 8 of the true sum (R107, R112). -/
def carryOut (p q : Byte) : Bool := (p.setWidth 9 + q.setWidth 9).getLsbD 8

/-- The borrow out of an 8-bit subtraction `p - q`: true when a borrow occurred (R108, D9). -/
def borrowOut (p q : Byte) : Bool := p.ult q

/-- The bit a right shift by one moves out (R109). -/
def shiftedOutRight (q : Byte) : Bool := q.getLsbD 0

/-- The bit a left shift by one moves out (R110). -/
def shiftedOutLeft (q : Byte) : Bool := q.getLsbD 7

end Sys2Proof.Machine
end

