-- ==== Sys2Proof/Config.lean ====
section
/-! DEFINITION. The parameters of the block: the sizes the spec fixes (R4) and the values it leaves open (R7, R29). -/

namespace Sys2Proof.Config

/-- `MEM_SIZE` (R4): addresses 0x000..0xFFF. -/
def memSize : Nat := 4096

/-- `PROG_BASE` (R4): the reset value of `PC` and the default base of LOAD. -/
def progBase : Nat := 0x200

/-- `GLYPH_BYTES` (R4): bytes of one font glyph. -/
def glyphBytes : Nat := 5

/-- The length of the font, sixteen glyphs from `FONT_BASE` = 0x000 (R4, R43). -/
def fontBytes : Nat := 80

/-- `STACK_DEPTH` (R4). -/
def stackDepth : Nat := 16

/-- `FB_W` (R4): columns of the framebuffer. -/
def fbWidth : Nat := 64

/-- `FB_H` (R4): rows of the framebuffer. -/
def fbHeight : Nat := 32

/-- `FONT_ROM` (R7, R201): the byte RESET puts at an address below `fontBytes`. The spec gives no value (D18: OPEN), so it has
no body: what is proved holds of every font. Log 3. -/
opaque fontRom : Nat → Byte

/-- The byte of the `k`-th draw of `Cxkk` (R29, R111). The spec puts no law on it (D19), so it has no body. Log 2. -/
opaque randomByte : Nat → Byte

/-- `TICK_HZ` (R7): the rate of TICK. No rule reads it. -/
def tickHz : Nat := 60

/-- `STEP_HZ` (R7): the rate of STEP, a parameter whose value and range the spec leaves open. No rule reads it. Log 13. -/
opaque stepHz : Nat

end Sys2Proof.Config
end

