-- ==== Sys2Proof/Machine/State.lean ====
section
/-! DEFINITION. The state of the block: the aggregate of R10, and the two fields that carry its inputs (R29). -/

namespace Sys2Proof.Machine

/-- The ways a step of the model could end with the machine stopped. There is none: the spec's fatal faults are a latch in the
state, from which the events go on (R161, R165), so each is a next state (log 6). -/
inductive Fault where
deriving DecidableEq, Repr

/-- The ways a step of the model could be left without a meaning. -/
inductive Refusal where
  /-- An arm of `exec` that has no meaning yet, raised by that arm alone. SAFE: nothing is claimed of it. No arm raises it. -/
  | notModelled (mnemonic : String)
deriving DecidableEq, Repr

/-- The six causes of a fatal fault (R162); none of them is the code 0 of the register `FAULT`, and its code 7 names no cause. -/
inductive FaultCode where
  | fetchRange
  | memRange
  | stackUnderflow
  | stackOverflow
  | fbRange
  | keyRange
deriving DecidableEq, Repr

/-- The events of R180. STEP's random byte is not an argument here: it comes from `Config.randomByte` (log 2). -/
inductive Event where
  /-- RESET (R200). -/
  | reset
  /-- LOAD (R184): `base` 0..4096 and any number of bytes. -/
  | load (base : Fin 4097) (bytes : List Byte)
  /-- START (R182). -/
  | start
  /-- STOP (R183). -/
  | stop
  /-- SETKEY (R186): `index` 0..15. -/
  | setKey (index : Fin 16) (pressed : Bool)
  /-- STEP (R80). -/
  | step
  /-- TICK (R171). -/
  | tick
deriving DecidableEq, Repr

/-- `Mem` (R40) as the cells that differ from their reset contents, by rising address. -/
abbrev Memory := List Host.Cell

/-- `FB` (R23): `fb[y][x]`, row `y` 0..31, column `x` 0..63 (log 5). -/
abbrev Framebuffer := Vector (Vector Bool 64) 32

/-- The state (R10), and at its end the two fields of the model's own. -/
structure State where
  /-- `Mem` (R40). -/
  mem : Memory
  /-- `V[0..15]` (R11). -/
  v : Vector Byte 16
  /-- `I` (R14). -/
  i : Word
  /-- `PC` (R15), a byte address. -/
  pc : Word
  /-- `SP` (R18), 0..16. -/
  sp : Fin 17
  /-- `Stack[0..15]` (R24). -/
  stack : Vector Word 16
  /-- `DT` (R20). -/
  dt : Byte
  /-- `ST` (R21). -/
  st : Byte
  /-- `KEYS[0..15]` (R22). -/
  keys : Vector Bool 16
  /-- `FB` (R23). -/
  fb : Framebuffer
  /-- `RUN` (R30). -/
  run : Bool
  /-- `STARTED` (R31). -/
  started : Bool
  /-- `FAULT` (R32), 0 for none. -/
  fault : BitVec 3
  /-- `FAULT_PC` (R33). -/
  faultPc : Word
  /-- `FAULT_OP` (R34). -/
  faultOp : Word
  /-- The model's own: how many random bytes have been drawn (R29, R111; log 2). -/
  draws : Nat
  /-- The model's own: the events to come, the next one first, and STEP after STEP when it is empty (R160; log 1). -/
  schedule : List Event
deriving DecidableEq, Repr

/-- The answer of an instruction, an event or a step. -/
abbrev Result := Host.Outcome State Fault Refusal

/-- The state right after RESET (R201 to R203), with the model's own two fields at values of the model's choice (log 1, log 2). -/
def State.reset : State where
  mem := []
  v := Vector.replicate 16 0x00
  i := 0x0000
  pc := 0x0200
  sp := 0
  stack := Vector.replicate 16 0x0000
  dt := 0x00
  st := 0x00
  keys := Vector.replicate 16 false
  fb := Vector.replicate 32 (Vector.replicate 64 false)
  run := false
  started := false
  fault := 0
  faultPc := 0x0000
  faultOp := 0x0000
  draws := 0
  schedule := []

end Sys2Proof.Machine
end

