-- ==== Sys2Proof/Machine/Memory.lean ====
section
/-! DEFINITION. The operations on `Mem` (R40 to R47): what an address holds after RESET, reading and writing one byte, writing
a run of bytes, and the canonical form of the list. -/

namespace Sys2Proof.Machine

/-- What address `a` holds after RESET (R201): the font below 0x050, 0x00 elsewhere. An unlisted address reads so. -/
def Memory.resetByte (a : Nat) : Byte := if a < Config.fontBytes then Config.fontRom a else 0x00

/-- `MemRead(a, 1)` (R46): `Mem[a]`. -/
def Memory.read (m : Memory) (a : Nat) : Byte :=
  match m with
  | [] => Memory.resetByte a
  | (b, w) :: rest => if a = b then w else Memory.read rest a

/-- The cell of address `a` put before a list of higher addresses, unless it is the address's reset byte. -/
def Memory.putCell (a : Nat) (w : Byte) (rest : Memory) : Memory :=
  if w = Memory.resetByte a then rest else (a, w) :: rest

/-- `MemWrite(a, 1, w)` (R46): `Mem[a] <- w`, every other cell as it was, in the canonical form. -/
def Memory.write (m : Memory) (a : Nat) (w : Byte) : Memory :=
  match m with
  | [] => Memory.putCell a w []
  | (b, u) :: rest =>
    if a < b then Memory.putCell a w ((b, u) :: rest)
    else if a = b then Memory.putCell a w rest
    else (b, u) :: Memory.write rest a w

/-- Single-byte stores to ascending addresses (R46): `Mem[base + k] <- bytes[k]`. -/
def Memory.writeBytes (m : Memory) (base : Nat) (bytes : List Byte) : Memory :=
  match bytes with
  | [] => m
  | w :: rest => Memory.writeBytes (Memory.write m base w) (base + 1) rest

/-- The canonical form from address `lo` up: addresses strictly rising and below 4096, no entry equal to its reset byte. -/
def Memory.wfFrom (lo : Nat) (m : Memory) : Bool :=
  match m with
  | [] => true
  | (a, w) :: rest =>
    decide (lo ≤ a) && decide (a < Config.memSize) && decide (w ≠ Memory.resetByte a) && Memory.wfFrom (a + 1) rest

/-- The canonical form of a memory. -/
def Memory.wf (m : Memory) : Bool := Memory.wfFrom 0 m

/-- Every address of `base .. base + len - 1` is in 0..4095 (R41, R47); an empty range makes no access and always passes. -/
def rangeOk (base len : Nat) : Bool := decide (len = 0) || decide (base + len ≤ Config.memSize)

end Sys2Proof.Machine
end

