-- ==== Sys2Proof/Machine/Operands.lean ====
section
/-! DEFINITION. The operand forms: zero extension of `addr12` (R63), the effective address `I + k` (R41, R125), the glyph
address (R121), the decimal digits (R122), the key index (R140), the sprite's bits and target pixels (R131). -/

namespace Sys2Proof.Machine

/-- `zext_16(addr12)` (R63). -/
def zextAddr (nnn : BitVec 12) : Word := nnn.setWidth 16

/-- `EA(k) = I + k`, exact on naturals (R41, R125). -/
def effectiveAddress (i : Word) (k : Nat) : Nat := i.toNat + k

/-- `V[x] * 5`, the address of a font glyph; at most 1275, so exact in 16 bits (R121). -/
def glyphAddress (b : Byte) : Word := BitVec.ofNat 16 (b.toNat * Config.glyphBytes)

/-- The hundreds digit (R122). -/
def bcdHundreds (b : Byte) : Byte := BitVec.ofNat 8 (b.toNat / 100)

/-- The tens digit (R122). -/
def bcdTens (b : Byte) : Byte := BitVec.ofNat 8 (b.toNat / 10 % 10)

/-- The ones digit (R122). -/
def bcdOnes (b : Byte) : Byte := BitVec.ofNat 8 (b.toNat % 10)

/-- The key a register's full value names, none above 15 (R140, R141, D7). -/
def keyIndex (b : Byte) : Option (Fin 16) := if h : b.toNat < 16 then some ⟨b.toNat, h⟩ else none

/-- The bit of column `c` of a sprite row, bit 7 being column 0 (R131). -/
def spriteBit (row : Byte) (c : Nat) : Bool := row.getLsbD (7 - c)

/-- The column a sprite's column `c` falls on, neither wrapped nor clipped (R131). -/
def spriteX (x0 : Byte) (c : Nat) : Nat := x0.toNat + c

/-- The row a sprite's row `r` falls on, neither wrapped nor clipped (R131). -/
def spriteY (y0 : Byte) (r : Nat) : Nat := y0.toNat + r

end Sys2Proof.Machine
end

