-- ==== Sys2Proof/Machine/Pixels.lean ====
section
/-! DEFINITION. The sprite XOR compositor (R131, R132): the pixels of `FB`, and drawing on a copy of it. -/

namespace Sys2Proof.Machine

/-- All 2048 pixels 0 (R130). -/
def Framebuffer.blank : Framebuffer := Vector.replicate 32 (Vector.replicate 64 false)

/-- `FB[py][px]`; false outside the grid, where no pixel is (R23). -/
def Framebuffer.pixel (fb : Framebuffer) (px py : Nat) : Bool :=
  if hy : py < 32 then if hx : px < 64 then (fb[py])[px] else false else false

/-- `FB[py][px] <- FB[py][px] ^ 1`; outside the grid there is no pixel and nothing changes (R23, R132). -/
def Framebuffer.toggle (fb : Framebuffer) (px py : Nat) : Framebuffer :=
  if hy : py < 32 then if hx : px < 64 then fb.set py ((fb[py]).set px (!(fb[py])[px])) else fb else fb

/-- The pixel exists (R23, R132). -/
def inGrid (px py : Nat) : Bool := decide (px < Config.fbWidth) && decide (py < Config.fbHeight)

/-- What a draw works on: the copy `fb` of the framebuffer and the collision bit `coll` so far (R132). -/
structure Canvas where
  fb : Framebuffer
  coll : Bool
deriving DecidableEq, Repr

/-- One sprite bit (R132): a clear bit touches nothing wherever it lands; a set bit toggles its pixel and collides if the pixel
was 1; a set bit outside the grid is fatal (D8). -/
def plot (bit : Bool) (px py : Nat) (cv : Canvas) : Except FaultCode Canvas :=
  if inGrid px py then
    .ok ⟨if bit then cv.fb.toggle px py else cv.fb, cv.coll || (bit && cv.fb.pixel px py)⟩
  else if bit then .error .fbRange
  else .ok cv

/-- The first `k` columns of a sprite row on framebuffer row `py`, leftmost first (R132). -/
def drawColumns (row x0 : Byte) (py : Nat) (cv : Canvas) (k : Nat) : Except FaultCode Canvas :=
  match k with
  | 0 => .ok cv
  | c + 1 => (drawColumns row x0 py cv c).bind (plot (spriteBit row c) (spriteX x0 c) py)

/-- The first `k` rows of the sprite whose row `r` is the byte `rowByte r`, top row first (R131, R132). -/
def drawRows (rowByte : Nat → Byte) (x0 y0 : Byte) (cv : Canvas) (k : Nat) : Except FaultCode Canvas :=
  match k with
  | 0 => .ok cv
  | r + 1 => (drawRows rowByte x0 y0 cv r).bind fun cv' => drawColumns (rowByte r) x0 (spriteY y0 r) cv' 8

end Sys2Proof.Machine
end

