-- ==== Sys2Proof/Machine/Ops.lean ====
section
/-! DEFINITION. The shared operations on the state: registers, memory, call stack, the fetch (R81), the advance and the skip
(R82, R87), taking a fatal fault (R161, R163), and the frame every instruction runs in (R84, R85). There is no return from a
fault: only RESET clears it (R166). -/

namespace Sys2Proof.Machine

/-- `V[x]` (R6, R11). -/
def State.readV (s : State) (x : Reg) : Byte := s.v[x.val]

/-- `V[x] <- b` (R6, R11): every register is an ordinary destination. -/
def State.writeV (s : State) (x : Reg) (b : Byte) : State := { s with v := s.v.set x.val b }

/-- `I <- w` (R6). -/
def State.setI (s : State) (w : Word) : State := { s with i := w }

/-- `PC <- w` (R6). -/
def State.setPc (s : State) (w : Word) : State := { s with pc := w }

/-- `DT <- b` (R6). -/
def State.setDt (s : State) (b : Byte) : State := { s with dt := b }

/-- `ST <- b` (R6). -/
def State.setSt (s : State) (b : Byte) : State := { s with st := b }

/-- `FB <- fb` (R132). -/
def State.setFb (s : State) (fb : Framebuffer) : State := { s with fb := fb }

/-- `MemRead(a, 1)` (R46). -/
def State.loadByte (s : State) (a : Nat) : Byte := Memory.read s.mem a

/-- `MemWrite` of consecutive bytes from `base` up (R46). -/
def State.storeBytes (s : State) (base : Nat) (bytes : List Byte) : State :=
  { s with mem := Memory.writeBytes s.mem base bytes }

/-- A result to `V[x]` first, then a flag to `V[0xF]`: with `x = 0xF` the flag is what remains (R100, D10). -/
def State.writeResultAndFlag (s : State) (x : Reg) (result : Byte) (flag : Bool) : State :=
  (s.writeV x result).writeV flagReg (flagByte flag)

/-- `V[0] .. V[x]` in ascending order (R123). -/
def State.firstRegs (s : State) (x : Reg) : List Byte := s.v.toList.take (x.val + 1)

/-- `V[j] <- MemRead(base + j, 1)` for `j` in 0 .. `k - 1`, ascending (R124). -/
def State.loadRegs (s : State) (base k : Nat) : State :=
  match k with
  | 0 => s
  | j + 1 => (s.loadRegs base j).writeV (Fin.ofNat 16 j) (s.loadByte (base + j))

/-- `Stack[SP] <- ret ; SP <- SP + 1` (R92); the stack is full at `SP = 16` (D6). -/
def State.pushReturn (s : State) (ret : Word) : Except FaultCode State :=
  if h : s.sp.val < 16 then .ok { s with stack := s.stack.set s.sp.val ret, sp := ⟨s.sp.val + 1, by omega⟩ }
  else .error .stackOverflow

/-- `SP <- SP - 1 ; PC <- Stack[SP]` (R90); the entry keeps its value (R24, D30); the stack is empty at `SP = 0`. -/
def State.popReturn (s : State) : Except FaultCode State :=
  if s.sp.val = 0 then .error .stackUnderflow
  else .ok { s with sp := ⟨s.sp.val - 1, by omega⟩, pc := s.stack[s.sp.val - 1] }

/-- `KEYS[k]` for the key the byte names, fatal above 15 (R140, D7). -/
def State.readKey (s : State) (b : Byte) : Except FaultCode Bool :=
  match keyIndex b with
  | some k => .ok s.keys[k.val]
  | none => .error .keyRange

/-- A fresh random byte (R111, R29): the next value of the free `Config.randomByte` (log 2). -/
def State.randomByte (s : State) : Byte := Config.randomByte s.draws

/-- The random source after one draw. -/
def State.nextDraw (s : State) : State := { s with draws := s.draws + 1 }

/-- `PC <- PC + 2`, the advance of R82, before the instruction executes. -/
def State.advance (s : State) : State := { s with pc := s.pc + 2 }

/-- `skip`: a further `PC <- PC + 2` on the advanced `PC`, when the condition holds (R87). -/
def State.skipIf (s : State) (taken : Bool) : State := if taken then { s with pc := s.pc + 2 } else s

/-- The 3-bit code of a cause (R162). -/
def FaultCode.toBits : FaultCode → BitVec 3
  | .fetchRange => 1
  | .memRange => 2
  | .stackUnderflow => 3
  | .stackOverflow => 4
  | .fbRange => 5
  | .keyRange => 6

/-- Taking a fatal fault (R161, R163): `FAULT`, `FAULT_PC` and `FAULT_OP` are written, and nothing else changes; `PC` is still
the address of the faulting instruction. -/
def State.takeFault (s : State) (cause : FaultCode) (op : Word) : State :=
  { s with fault := cause.toBits, faultPc := s.pc, faultOp := op }

/-- The frame of an instruction that can fault: `body` runs on the state with `PC` already advanced (R82, R84); if it raises a
fault nothing of it is kept, the advance included, and the fault is taken (R85). `op` is the word fetched at `PC`. -/
def commit (op : Word) (body : State → Except FaultCode State) (s : State) : Result :=
  match body s.advance with
  | .ok t => .next t
  | .error cause => .next (s.takeFault cause op)

/-- The frame of an instruction that cannot fault (R82, R84). -/
def complete (body : State → State) (s : State) : Result := .next (body s.advance)

/-- `op <- MemRead(PC, 2)`, high byte first; none when `PC > 0xFFE` (R81). -/
def State.fetch (s : State) : Option Word :=
  if s.pc.toNat ≤ 0xFFE then some (wordOfBytes (s.loadByte s.pc.toNat) (s.loadByte (s.pc.toNat + 1))) else none

end Sys2Proof.Machine
end

