-- ==== Sys2Proof/Machine/Alu.lean ====
section
/-! DEFINITION. Register load, ALU and random (R100 to R112): `6xkk`, `7xkk`, `8xy0` to `8xy6`, `8xyE`, `Cxkk`. Operands are
read before any write (R100). -/

namespace Sys2Proof.Machine

/-- `6xkk` load immediate (R101). -/
def execLdVxByte (x : Reg) (kk : Byte) (s : State) : Result :=
  complete (fun s => s.writeV x kk) s

/-- `7xkk` add immediate modulo 256, no flag (R102). -/
def execAddVxByte (x : Reg) (kk : Byte) (s : State) : Result :=
  complete (fun s => s.writeV x (s.readV x + kk)) s

/-- `8xy0` move (R103). -/
def execLdVxVy (x y : Reg) (s : State) : Result :=
  complete (fun s => s.writeV x (s.readV y)) s

/-- `8xy1` OR, no flag (R104). -/
def execOrVxVy (x y : Reg) (s : State) : Result :=
  complete (fun s => s.writeV x (s.readV x ||| s.readV y)) s

/-- `8xy2` AND, no flag (R105). -/
def execAndVxVy (x y : Reg) (s : State) : Result :=
  complete (fun s => s.writeV x (s.readV x &&& s.readV y)) s

/-- `8xy3` XOR, no flag (R106). -/
def execXorVxVy (x y : Reg) (s : State) : Result :=
  complete (fun s => s.writeV x (s.readV x ^^^ s.readV y)) s

/-- `8xy4` add with carry out (R107). -/
def execAddVxVy (x y : Reg) (s : State) : Result :=
  complete (fun s => s.writeResultAndFlag x (s.readV x + s.readV y) (carryOut (s.readV x) (s.readV y))) s

/-- `8xy5` subtract with borrow out (R108). -/
def execSubVxVy (x y : Reg) (s : State) : Result :=
  complete (fun s => s.writeResultAndFlag x (s.readV x - s.readV y) (borrowOut (s.readV x) (s.readV y))) s

/-- `8xy6` shift `V[y]` right by one into `V[x]` (R109). -/
def execShrVxVy (x y : Reg) (s : State) : Result :=
  complete (fun s => s.writeResultAndFlag x (s.readV y >>> 1) (shiftedOutRight (s.readV y))) s

/-- `8xyE` shift `V[y]` left by one into `V[x]` (R110). -/
def execShlVxVy (x y : Reg) (s : State) : Result :=
  complete (fun s => s.writeResultAndFlag x (s.readV y <<< 1) (shiftedOutLeft (s.readV y))) s

/-- `Cxkk` random AND mask (R111): one fresh byte is drawn. -/
def execRndVxByte (x : Reg) (kk : Byte) (s : State) : Result :=
  complete (fun s => (s.writeV x (s.randomByte &&& kk)).nextDraw) s

end Sys2Proof.Machine
end

