-- ==== Sys2Proof/Machine/ControlFlow.lean ====
section
/-! DEFINITION. Control transfer (R90 to R95): `00EE`, `1nnn`, `2nnn`, `3xkk`, `4xkk`. -/

namespace Sys2Proof.Machine

/-- `00EE` return (R90); the ignored bits appear in `FAULT_OP` alone. -/
def execRet (ignored : BitVec 4) (s : State) : Result :=
  commit (encode (.ret ignored)) (fun s => s.popReturn) s

/-- `1nnn` jump (R91). -/
def execJpAddr (nnn : BitVec 12) (s : State) : Result :=
  complete (fun s => s.setPc (zextAddr nnn)) s

/-- `2nnn` call (R92): the advanced `PC` is pushed. -/
def execCallAddr (nnn : BitVec 12) (s : State) : Result :=
  commit (encode (.callAddr nnn)) (fun s => (s.pushReturn s.pc).map fun t => t.setPc (zextAddr nnn)) s

/-- `3xkk` skip if equal (R93). -/
def execSeVxByte (x : Reg) (kk : Byte) (s : State) : Result :=
  complete (fun s => s.skipIf (s.readV x == kk)) s

/-- `4xkk` skip if not equal (R94). -/
def execSneVxByte (x : Reg) (kk : Byte) (s : State) : Result :=
  complete (fun s => s.skipIf (s.readV x != kk)) s

end Sys2Proof.Machine
end

