-- ==== Sys2Proof/Machine/Display.lean ====
section
/-! DEFINITION. Display (R130 to R133): `00E0` and `Dxyn`. -/

namespace Sys2Proof.Machine

/-- `00E0` clear screen (R130): `V[0xF]` is not written. -/
def execCls (_ignored : BitVec 4) (s : State) : Result :=
  complete (fun s => s.setFb Framebuffer.blank) s

/-- `Dxyn` draw sprite (R132): MEM_RANGE for the whole sprite first, then the drawing on a copy of `FB`, which may raise
FB_RANGE; at the end the copy and the collision bit are written. -/
def execDrwVxVyN (x y : Reg) (n : BitVec 4) (s : State) : Result :=
  commit (encode (.drwVxVyN x y n)) (fun s =>
    if rangeOk (effectiveAddress s.i 0) n.toNat then
      (drawRows (fun r => s.loadByte (effectiveAddress s.i r)) (s.readV x) (s.readV y) ⟨s.fb, false⟩ n.toNat).map
        fun cv => (s.setFb cv.fb).writeV flagReg (flagByte cv.coll)
    else .error .memRange) s

end Sys2Proof.Machine
end

