-- ==== Sys2Proof/Machine/IndexMemory.lean ====
section
/-! DEFINITION. Index register and memory transfer (R120 to R125): `Annn`, `Fx29`, `Fx33`, `Fx55`, `Fx65`. The whole range is
checked before a byte moves, and `I` is not changed by a transfer (R47, R125). -/

namespace Sys2Proof.Machine

/-- `Annn` load index (R120). -/
def execLdIAddr (nnn : BitVec 12) (s : State) : Result :=
  complete (fun s => s.setI (zextAddr nnn)) s

/-- `Fx29` font glyph address (R121): the full register value, not masked (D12). -/
def execLdFVx (x : Reg) (s : State) : Result :=
  complete (fun s => s.setI (glyphAddress (s.readV x))) s

/-- `Fx33` store BCD (R122): hundreds, tens, ones, ascending from `I`. -/
def execLdBVx (x : Reg) (s : State) : Result :=
  commit (encode (.ldBVx x)) (fun s =>
    if rangeOk (effectiveAddress s.i 0) 3 then
      .ok (s.storeBytes (effectiveAddress s.i 0) [bcdHundreds (s.readV x), bcdTens (s.readV x), bcdOnes (s.readV x)])
    else .error .memRange) s

/-- `Fx55` store `V[0..x]` from `I` up (R123). -/
def execLdMemVx (x : Reg) (s : State) : Result :=
  commit (encode (.ldMemVx x)) (fun s =>
    if rangeOk (effectiveAddress s.i 0) (x.val + 1) then .ok (s.storeBytes (effectiveAddress s.i 0) (s.firstRegs x))
    else .error .memRange) s

/-- `Fx65` load `V[0..x]` from `I` up (R124). -/
def execLdVxMem (x : Reg) (s : State) : Result :=
  commit (encode (.ldVxMem x)) (fun s =>
    if rangeOk (effectiveAddress s.i 0) (x.val + 1) then .ok (s.loadRegs (effectiveAddress s.i 0) (x.val + 1))
    else .error .memRange) s

end Sys2Proof.Machine
end

