-- ==== Sys2Proof/Machine/KeysTimers.lean ====
section
/-! DEFINITION. Keys and timers (R140 to R144): `Ex9E`, `ExA1`, `Fx07`, `Fx15`, `Fx18`. -/

namespace Sys2Proof.Machine

/-- `Ex9E` skip if key pressed (R140). -/
def execSkpVx (x : Reg) (s : State) : Result :=
  commit (encode (.skpVx x)) (fun s => (s.readKey (s.readV x)).map fun pressed => s.skipIf pressed) s

/-- `ExA1` skip if key not pressed (R141). -/
def execSknpVx (x : Reg) (s : State) : Result :=
  commit (encode (.sknpVx x)) (fun s => (s.readKey (s.readV x)).map fun pressed => s.skipIf (!pressed)) s

/-- `Fx07` read delay timer (R142). -/
def execLdVxDt (x : Reg) (s : State) : Result :=
  complete (fun s => s.writeV x s.dt) s

/-- `Fx15` set delay timer (R143). -/
def execLdDtVx (x : Reg) (s : State) : Result :=
  complete (fun s => s.setDt (s.readV x)) s

/-- `Fx18` set sound timer (R144). -/
def execLdStVx (x : Reg) (s : State) : Result :=
  complete (fun s => s.setSt (s.readV x)) s

end Sys2Proof.Machine
end

