-- ==== Sys2Proof/Machine/Unlisted.lean ====
section
/-! DEFINITION. Unlisted encodings (R67, R150, R151): no-ops that advance `PC`, one meaning for each family of the table. -/

namespace Sys2Proof.Machine

/-- The no-op of R150: nothing but the advance. -/
def noOperation (s : State) : Result := complete (fun s => s) s

/-- Unlisted words of family 0x0 (R150). -/
def execUnlisted0 (_ignored : BitVec 12) (s : State) : Result := noOperation s

/-- Unlisted words of family 0x5 (R150). -/
def execUnlisted5 (_ignored : BitVec 12) (s : State) : Result := noOperation s

/-- Unlisted words of family 0x8 (R150). -/
def execUnlisted8 (_ignored : BitVec 12) (s : State) : Result := noOperation s

/-- Unlisted words of family 0x9 (R150). -/
def execUnlisted9 (_ignored : BitVec 12) (s : State) : Result := noOperation s

/-- Unlisted words of family 0xB (R150). -/
def execUnlistedB (_ignored : BitVec 12) (s : State) : Result := noOperation s

/-- Unlisted words of family 0xE (R150). -/
def execUnlistedE (_ignored : BitVec 12) (s : State) : Result := noOperation s

/-- Unlisted words of family 0xF (R150). -/
def execUnlistedF (_ignored : BitVec 12) (s : State) : Result := noOperation s

end Sys2Proof.Machine
end

