-- ==== Sys2Proof/Machine/Events.lean ====
section
/-! DEFINITION. The events other than STEP (R160, R180): RESET, LOAD, START, STOP, SETKEY and TICK. -/

namespace Sys2Proof.Machine

/-- RESET (R200): every piece of the block's state to its reset value. The random source and the events to come are inputs, not
state of the block (R29), and go on (log 14). -/
def resetEvent (s : State) : State := { State.reset with draws := s.draws, schedule := s.schedule }

/-- The status LOAD returns (R184). -/
inductive LoadStatus where
  | ok
  | loadOverflow
  | loadRefused
deriving DecidableEq, Repr

/-- The status of a LOAD in a state (R184): refused once started, else an overflow above 4096. -/
def loadStatus (base : Nat) (bytes : List Byte) (s : State) : LoadStatus :=
  if s.started then .loadRefused
  else if Config.memSize < base + bytes.length then .loadOverflow
  else .ok

/-- LOAD (R184): all or nothing, `Mem` only; `PC` is not set to `base`. The status is `loadStatus` (log 8). -/
def loadEvent (base : Nat) (bytes : List Byte) (s : State) : State :=
  match loadStatus base bytes s with
  | .ok => s.storeBytes base bytes
  | .loadOverflow => s
  | .loadRefused => s

/-- START (R182). -/
def startEvent (s : State) : State := { s with run := true, started := true }

/-- STOP (R183). -/
def stopEvent (s : State) : State := { s with run := false }

/-- SETKEY (R186). -/
def setKeyEvent (index : Fin 16) (pressed : Bool) (s : State) : State := { s with keys := s.keys.set index.val pressed }

/-- A timer after one TICK: one less, but never below 0 (R20, R171). -/
def countDown (b : Byte) : Byte := if b = 0 then 0 else b - 1

/-- TICK (R171): enabled when `RUN = 1`, also while halted by a fault (R167). -/
def tickEvent (s : State) : State := if s.run then { s with dt := countDown s.dt, st := countDown s.st } else s

end Sys2Proof.Machine
end

