-- ==== Sys2Proof/Machine/Cycle.lean ====
section
/-! DEFINITION. The STEP event (R80 to R85) and the application of any event (R180). -/

namespace Sys2Proof.Machine

/-- STEP has an effect (R80). -/
def State.stepEnabled (s : State) : Bool := s.run && s.fault == 0

/-- STEP (R80 to R85): ignored unless enabled; a fetch out of range is the fault 1 with `FAULT_OP` 0x0000 (R81); else the
fetched word's instruction is executed. -/
def stepEvent (s : State) : Result :=
  if s.stepEnabled then
    match s.fetch with
    | none => .next (s.takeFault .fetchRange 0x0000)
    | some op => exec (decodeWord op) s
  else .next s

/-- One event applied whole (R160, R180). -/
def applyEvent (e : Event) (s : State) : Result :=
  match e with
  | .reset => .next (resetEvent s)
  | .load base bytes => .next (loadEvent base.val bytes s)
  | .start => .next (startEvent s)
  | .stop => .next (stopEvent s)
  | .setKey index pressed => .next (setKeyEvent index pressed s)
  | .step => stepEvent s
  | .tick => .next (tickEvent s)

/-- The next event: the head of the schedule, else STEP (log 1). -/
def State.nextEvent (s : State) : Event := s.schedule.headD .step

/-- The state with its next event taken off the schedule. -/
def State.dropEvent (s : State) : State := { s with schedule := s.schedule.tail }

/-- The address `withFetchWord` puts a word at: `PC`, or 0x200 where `PC` is past the last address a fetch can use (log 7). -/
def State.fetchAddress (s : State) : Word := if s.pc.toNat ≤ 0xFFE then s.pc else 0x0200

/-- The state in which the very next step is a STEP that fetches `op` (log 7): the bytes of `op` in memory, `PC` at them,
started and running, no fault latched, nothing scheduled before the STEP. -/
def State.placeWord (s : State) (op : Word) : State :=
  { s with
    mem := Memory.writeBytes s.mem s.fetchAddress.toNat [highByte op, lowByte op]
    pc := s.fetchAddress
    run := true
    started := true
    fault := 0
    schedule := [] }

end Sys2Proof.Machine
end

