-- ==== Sys2Proof/Machine/Step.lean ====
section
/-! DEFINITION. One step of the machine: one event (R160). -/

namespace Sys2Proof.Machine

/-- One step: the next event, taken off the schedule and applied whole (R160; log 1). -/
def step (s : State) : Host.Outcome State Fault Refusal := applyEvent s.nextEvent s.dropEvent

/-- `s` with an instruction word where the next step fetches it, all else that this takes set too (log 7). -/
def State.withFetchWord (s : State) (nbits w : Nat) : State := s.placeWord (BitVec.ofNat 16 (w % 2 ^ nbits))

end Sys2Proof.Machine
end

