-- ==== Sys2Proof/Machine/Outputs.lean ====
section
/-! DEFINITION. What the block shows of itself between events (R160, R188); a read has no side effect. -/

namespace Sys2Proof.Machine

/-- The pixel read (R185): the address is 6 + 5 bits, so no read is out of range. -/
def State.pixelRead (s : State) (x : Fin 64) (y : Fin 32) : Bool := s.fb.pixel x.val y.val

/-- `sound_active` (R172): true iff `ST > 0`. -/
def State.soundActive (s : State) : Bool := decide (0 < s.st.toNat)

/-- `halted` (R32): `FAULT != 0`. -/
def State.halted (s : State) : Bool := s.fault != 0

/-- `fault_code` (R163). -/
def State.faultCodeOut (s : State) : BitVec 3 := s.fault

/-- `fault_pc` (R163). -/
def State.faultPcOut (s : State) : Word := s.faultPc

/-- `fault_op` (R163). -/
def State.faultOpOut (s : State) : Word := s.faultOp

/-- `running` (R188): `RUN`. -/
def State.running (s : State) : Bool := s.run

end Sys2Proof.Machine
end

