-- ==== Sys2Proof/Safety.lean ====
section
/-! DEFINITION. What counts as a good run (R165, R213), and the relations claims are written in. -/

namespace Sys2Proof.Machine

/-- No fatal fault is recorded; a state with one is never a normal end (R165). -/
def State.Safe (s : State) : Prop := s.fault = 0

/-- A run of `k` steps that ends in a next state with no fault recorded. -/
def SafeRun (k : Nat) (s : State) : Prop := ∃ t, Sys2Proof.core.run k s = .next t ∧ State.Safe t

/-- "The program has finished" (R213): `Mem[PC..PC+1]` encodes the jump to `PC` itself, and no fault is recorded. -/
def State.Finished (s : State) : Prop :=
  s.fault = 0 ∧ s.pc.toNat ≤ 0xFFE ∧
    ∃ nnn : BitVec 12, zextAddr nnn = s.pc ∧
      wordOfBytes (s.loadByte s.pc.toNat) (s.loadByte (s.pc.toNat + 1)) = encode (.jpAddr nnn)

/-- What holds of every state a run from reset reaches (R17, R18, R27, R162, R165): the memory is canonical, `I` and `PC` and
the saved addresses stay in their ranges, `FAULT` is never 7, a running or faulted block has been started, and the fault
registers agree with `FAULT`. `SP <= 16` is its type. -/
structure State.Inv (s : State) : Prop where
  mem_wf : Memory.wf s.mem = true
  i_le : s.i.toNat ≤ 0xFFF
  pc_le : s.pc.toNat ≤ 0x1002
  stack_le : ∀ k : Fin 16, s.stack[k.val].toNat ≤ 0x1000
  fault_ne_seven : s.fault ≠ 7
  run_started : s.run = true → s.started = true
  fault_started : s.fault ≠ 0 → s.started = true
  fault_pc : s.fault ≠ 0 → s.faultPc = s.pc
  no_fault_regs : s.fault = 0 → s.faultPc = 0 ∧ s.faultOp = 0

end Sys2Proof.Machine
end

