-- ==== Sys2Proof/Certificates/Slice0/Obligations.lean ====
section
/-! DEFINITION. The statements for the provers, after the numbered rules of spec/. `Sys2Proof.Claims` holds the words they are
written in: rows of the opcode map, frames, and the conditions of the rules, in numbers as the spec writes them. -/

namespace Sys2Proof.Claims

open Sys2Proof.Machine

/-! Rows of the opcode map (R61, R62, R66): exactly the words with `op & mask == value` decode to the row's instruction, with
the fields of the word. -/

/-- A row of format `NNN`. -/
def RowNNN (value : Word) (c : BitVec 12 → Instr) : Prop :=
  ∀ op : Word, op &&& 0xF000#16 = value ↔ ∃ nnn, nnn.toNat = op.toNat % 0x1000 ∧ decodeWord op = c nnn

/-- A row of format `XKK`. -/
def RowXKK (value : Word) (c : Reg → Byte → Instr) : Prop :=
  ∀ op : Word, op &&& 0xF000#16 = value ↔
    ∃ x kk, x.val = op.toNat / 0x100 % 0x10 ∧ kk.toNat = op.toNat % 0x100 ∧ decodeWord op = c x kk

/-- A row of format `XYS`. -/
def RowXYS (value : Word) (c : Reg → Reg → Instr) : Prop :=
  ∀ op : Word, op &&& 0xF00F#16 = value ↔
    ∃ x y, x.val = op.toNat / 0x100 % 0x10 ∧ y.val = op.toNat / 0x10 % 0x10 ∧ decodeWord op = c x y

/-- A row of format `XYN`. -/
def RowXYN (value : Word) (c : Reg → Reg → BitVec 4 → Instr) : Prop :=
  ∀ op : Word, op &&& 0xF000#16 = value ↔
    ∃ x y n, x.val = op.toNat / 0x100 % 0x10 ∧ y.val = op.toNat / 0x10 % 0x10 ∧ n.toNat = op.toNat % 0x10 ∧
      decodeWord op = c x y n

/-- A row of format `XD8`. -/
def RowXD8 (value : Word) (c : Reg → Instr) : Prop :=
  ∀ op : Word, op &&& 0xF0FF#16 = value ↔ ∃ x, x.val = op.toNat / 0x100 % 0x10 ∧ decodeWord op = c x

/-- A row of format `_D8`: bits 11..8 are ignored (R64). -/
def RowD8 (value : Word) (c : BitVec 4 → Instr) : Prop :=
  ∀ op : Word, op &&& 0xF0FF#16 = value ↔ ∃ ignored, ignored.toNat = op.toNat / 0x100 % 0x10 ∧ decodeWord op = c ignored

/-- The regions of R67, on the word as a number. -/
def UnlistedNumber (op : Nat) : Prop :=
  (op / 0x1000 = 0x0 ∧ op % 0x100 ∉ [0xE0, 0xEE]) ∨ op / 0x1000 = 0x5 ∨
    (op / 0x1000 = 0x8 ∧ op % 0x10 ∈ [0x7, 0x8, 0x9, 0xA, 0xB, 0xC, 0xD, 0xF]) ∨ op / 0x1000 = 0x9 ∨ op / 0x1000 = 0xB ∨
    (op / 0x1000 = 0xE ∧ op % 0x100 ∉ [0x9E, 0xA1]) ∨
    (op / 0x1000 = 0xF ∧ op % 0x100 ∉ [0x07, 0x15, 0x18, 0x29, 0x33, 0x55, 0x65])

/-! Frames. `t` is the state after, `s` the state before; all of `t` but the fields named is as in `s`, and every byte of memory
reads as before where memory is not named. -/

/-- Every byte of memory reads as before. -/
def KeepsBytes (s t : State) : Prop := ∀ a, t.loadByte a = s.loadByte a

/-- Only `PC` may differ. -/
def OnlyPc (s t : State) : Prop := { t with pc := s.pc } = s ∧ KeepsBytes s t

/-- Only `V` and `PC` may differ. -/
def OnlyV (s t : State) : Prop := { t with v := s.v, pc := s.pc } = s ∧ KeepsBytes s t

/-- Only `V`, the model's draw counter and `PC` may differ. -/
def OnlyVAndDraws (s t : State) : Prop := { t with v := s.v, draws := s.draws, pc := s.pc } = s ∧ KeepsBytes s t

/-- Only `I` and `PC` may differ. -/
def OnlyI (s t : State) : Prop := { t with i := s.i, pc := s.pc } = s ∧ KeepsBytes s t

/-- Only `DT` and `PC` may differ. -/
def OnlyDt (s t : State) : Prop := { t with dt := s.dt, pc := s.pc } = s ∧ KeepsBytes s t

/-- Only `ST` and `PC` may differ. -/
def OnlySt (s t : State) : Prop := { t with st := s.st, pc := s.pc } = s ∧ KeepsBytes s t

/-- Only `FB` and `PC` may differ. -/
def OnlyFb (s t : State) : Prop := { t with fb := s.fb, pc := s.pc } = s ∧ KeepsBytes s t

/-- Only `FB`, `V` and `PC` may differ. -/
def OnlyFbAndV (s t : State) : Prop := { t with fb := s.fb, v := s.v, pc := s.pc } = s ∧ KeepsBytes s t

/-- Only `SP`, `Stack` and `PC` may differ. -/
def OnlyStack (s t : State) : Prop := { t with sp := s.sp, stack := s.stack, pc := s.pc } = s ∧ KeepsBytes s t

/-- Only `SP` and `PC` may differ. -/
def OnlySp (s t : State) : Prop := { t with sp := s.sp, pc := s.pc } = s ∧ KeepsBytes s t

/-- Only `Mem` and `PC` may differ, and of `Mem` only the `len` bytes from `base` up. -/
def OnlyBytes (base len : Nat) (s t : State) : Prop :=
  { t with mem := s.mem, pc := s.pc } = s ∧ ∀ a, a < base ∨ base + len ≤ a → t.loadByte a = s.loadByte a

/-- Only the three fault registers may differ (R161). -/
def OnlyFaultRegisters (s t : State) : Prop :=
  { t with fault := s.fault, faultPc := s.faultPc, faultOp := s.faultOp } = s ∧ KeepsBytes s t

/-- Every register but `x` is as before. -/
def KeepsVBut (x : Reg) (s t : State) : Prop := ∀ r, r ≠ x → t.readV r = s.readV r

/-- Every register but `x` and `V[0xF]` is as before. -/
def KeepsVButFlagAnd (x : Reg) (s t : State) : Prop := ∀ r, r ≠ x → r ≠ 0xF → t.readV r = s.readV r

/-- `PC` moved on by `k` bytes (R16; modulo 65536 by its width, R17). -/
def PcPlus (k : Nat) (s t : State) : Prop := t.pc.toNat = (s.pc.toNat + k) % 65536

/-- The instruction answers with the fatal fault `code` and none of its effect (R161, R163). -/
def FaultsWith (code : Nat) (i : Instr) (s : State) : Prop :=
  ∃ t, exec i s = .next t ∧ t.fault.toNat = code ∧ t.faultPc = s.pc ∧ t.faultOp = encode i ∧ t.halted = true ∧
    OnlyFaultRegisters s t

/-- The sprite bit of row `r`, column `c`, of `n` rows at `I` is set (R131). -/
def SpriteBitSet (s : State) (n : BitVec 4) (r c : Nat) : Prop :=
  r < n.toNat ∧ c < 8 ∧ (s.loadByte (s.i.toNat + r)).toNat / 2 ^ (7 - c) % 2 = 1

/-- The sprite's `n` rows are all in memory (R47, R132); an empty sprite makes no access. -/
def SpriteInMemory (s : State) (n : BitVec 4) : Prop := 0 < n.toNat → s.i.toNat + n.toNat - 1 ≤ 4095

/-- Every set bit of the sprite at (`V[x]`, `V[y]`) has its pixel in the grid (R132). -/
def SpriteInGrid (s : State) (x y : Reg) (n : BitVec 4) : Prop :=
  ∀ r c, SpriteBitSet s n r c → (s.readV x).toNat + c ≤ 63 ∧ (s.readV y).toNat + r ≤ 31

/-- A set bit of the sprite at (`V[x]`, `V[y]`) falls on the pixel (`px`, `py`). -/
def SpriteCovers (s : State) (x y : Reg) (n : BitVec 4) (px : Fin 64) (py : Fin 32) : Prop :=
  ∃ r c, SpriteBitSet s n r c ∧ px.val = (s.readV x).toNat + c ∧ py.val = (s.readV y).toNat + r

/-- The fault conditions of the execute stage, row by row of R162, with the priority of R164. -/
def ExecuteFault (i : Instr) (s : State) (code : Nat) : Prop :=
  (∃ ignored, i = .ret ignored ∧ s.sp.val = 0 ∧ code = 3) ∨
  (∃ nnn, i = .callAddr nnn ∧ s.sp.val = 16 ∧ code = 4) ∨
  (∃ x y n, i = .drwVxVyN x y n ∧ ¬ SpriteInMemory s n ∧ code = 2) ∨
  (∃ x y n, i = .drwVxVyN x y n ∧ SpriteInMemory s n ∧ ¬ SpriteInGrid s x y n ∧ code = 5) ∨
  (∃ x, i = .ldBVx x ∧ 4095 < s.i.toNat + 2 ∧ code = 2) ∨
  (∃ x, (i = .ldMemVx x ∨ i = .ldVxMem x) ∧ 4095 < s.i.toNat + x.val ∧ code = 2) ∨
  (∃ x, (i = .skpVx x ∨ i = .sknpVx x) ∧ 15 < (s.readV x).toNat ∧ code = 6)

/-- The instructions that may write `V[r]` (R11): those with `r` as destination, the four ALU flag writers and `Dxyn` for
`V[0xF]`, and `Fx65` for the registers up to `x`. -/
def WritesV (i : Instr) (r : Reg) : Prop :=
  (∃ kk, i = .ldVxByte r kk ∨ i = .addVxByte r kk ∨ i = .rndVxByte r kk) ∨
  (∃ y, i = .ldVxVy r y ∨ i = .orVxVy r y ∨ i = .andVxVy r y ∨ i = .xorVxVy r y) ∨
  (∃ x y, (i = .addVxVy x y ∨ i = .subVxVy x y ∨ i = .shrVxVy x y ∨ i = .shlVxVy x y) ∧ (r = x ∨ r = 0xF)) ∨
  (∃ x y n, i = .drwVxVyN x y n ∧ r = 0xF) ∨
  i = .ldVxDt r ∨
  (∃ x, i = .ldVxMem x ∧ r ≤ x)

/-- The word at `PC` (R48, R81). -/
def wordAtPc (s : State) : Word := wordOfBytes (s.loadByte s.pc.toNat) (s.loadByte (s.pc.toNat + 1))

/-- Instructions executed one after another (no fetch between them). -/
def execAll : List Instr → State → Host.Outcome State Fault Refusal
  | [], s => .next s
  | i :: rest, s =>
    match exec i s with
    | .next t => execAll rest t
    | .fault r => .fault r
    | .refused r => .refused r

/-- In the next `k` steps only STEP, TICK and SETKEY come, and no STEP fetches an `Fx15` (the proviso of R171). -/
def NoDelayWrite : Nat → State → Prop
  | 0, _ => True
  | k + 1, s =>
    (s.nextEvent = .tick ∨ (∃ index pressed, s.nextEvent = .setKey index pressed) ∨
      (s.nextEvent = .step ∧ ∀ x, decodeWord (wordAtPc s) ≠ .ldDtVx x)) ∧
    ∀ t, step s = .next t → NoDelayWrite k t

/-- The values of reset (R201 to R203) and the outputs they give. -/
def HasResetValues (t : State) : Prop :=
  (∀ a, a < 80 → t.loadByte a = Config.fontRom a) ∧ (∀ a, 80 ≤ a → a < 4096 → t.loadByte a = 0x00) ∧
  (∀ r, t.readV r = 0x00) ∧ t.i = 0x0000 ∧ t.pc = 0x0200 ∧ t.sp.val = 0 ∧ (∀ k : Fin 16, t.stack[k.val] = 0x0000) ∧
  t.dt = 0x00 ∧ t.st = 0x00 ∧ (∀ k : Fin 16, t.keys[k.val] = false) ∧ (∀ px py, t.pixelRead px py = false) ∧
  t.run = false ∧ t.started = false ∧ t.fault = 0 ∧ t.faultPc = 0x0000 ∧ t.faultOp = 0x0000 ∧
  t.soundActive = false ∧ t.halted = false

end Sys2Proof.Claims

open Sys2Proof Sys2Proof.Machine Sys2Proof.Claims

/-! Encoding. -/

/-- Decoding the bytes of a well-formed instruction gives it back, every operand at every value, and leaves the bytes after it. -/
def Obligations.DecodeOfEncodedInstruction : Prop :=
  ∀ (i : Instr) (rest : List Byte), i.wellFormed = true → decode (encodeBytes i ++ rest) = .ok (i, rest)

/-- Every word decodes, to a well-formed instruction whose word it is (R65, R69); so each word is exactly one instruction. -/
def Obligations.EveryWordIsOneInstruction : Prop :=
  ∀ op : Word, (decodeWord op).wellFormed = true ∧ encode (decodeWord op) = op

/-- Words written out from the map of R66 decode to their instructions: a sanity check. -/
def Obligations.SampleWordsDecode : Prop :=
  decodeWord 0x00E0 = .cls 0 ∧ decodeWord 0x0AEE = .ret 0xA ∧ decodeWord 0x1ABC = .jpAddr 0xABC ∧
  decodeWord 0x3A7F = .seVxByte 0xA 0x7F ∧ decodeWord 0x8AB4 = .addVxVy 0xA 0xB ∧ decodeWord 0x8ABE = .shlVxVy 0xA 0xB ∧
  decodeWord 0xA300 = .ldIAddr 0x300 ∧ decodeWord 0xC03C = .rndVxByte 0 0x3C ∧ decodeWord 0xD125 = .drwVxVyN 1 2 5 ∧
  decodeWord 0xE59E = .skpVx 5 ∧ decodeWord 0xF433 = .ldBVx 4 ∧ decodeWord 0x5120 = .unlisted5 0x120 ∧
  decodeWord 0x8AB7 = .unlisted8 0xAB7 ∧ decodeWord 0xF00A = .unlistedF 0x00A ∧ decodeWord 0x0000 = .unlisted0 0x000

/-- R150 with the regions of R67: exactly the words of the seven regions are unlisted, and an unlisted instruction is a no-op
that advances `PC`. -/
def Obligations.UnlistedWordsAreNoOps : Prop :=
  (∀ op : Word, UnlistedNumber op.toNat ↔ (decodeWord op).isUnlisted = true) ∧
  ∀ (i : Instr) (s : State), i.isUnlisted = true → ∃ t, exec i s = .next t ∧ PcPlus 2 s t ∧ OnlyPc s t

/-! The step. -/

/-- A step is one event, applied whole (R160, R180): the first of the schedule, on the state without it there, and STEP when the
schedule is empty. A STEP with the block running, no fault latched and `PC` in range runs the decoded instruction, well-formed, on
the state whose `PC` is its address: with nothing scheduled, and with a STEP scheduled. (The schedule is the model's own, log 1;
that `exec` makes the advance itself is log 4.) -/
def Obligations.StepRunsDecodedInstruction : Prop :=
  (∀ (s : State) (e : Event) (events : List Event), s.schedule = e :: events →
    step s = applyEvent e { s with schedule := events }) ∧
  (∀ s : State, s.schedule = [] → step s = stepEvent s) ∧
  (∀ (s : State) (i : Instr) (rest : List Byte), s.schedule = [] → s.run = true → s.fault = 0 → s.pc.toNat ≤ 0xFFE →
    decode [s.loadByte s.pc.toNat, s.loadByte (s.pc.toNat + 1)] = .ok (i, rest) →
      i.wellFormed = true ∧ step s = exec i s) ∧
  (∀ (s : State) (events : List Event) (i : Instr) (rest : List Byte), s.schedule = .step :: events → s.run = true →
    s.fault = 0 → s.pc.toNat ≤ 0xFFE →
    decode [s.loadByte s.pc.toNat, s.loadByte (s.pc.toNat + 1)] = .ok (i, rest) →
      i.wellFormed = true ∧ step s = exec i { s with schedule := events })

/-- R80: a STEP that is not enabled changes nothing; one that is enabled completes. -/
def Obligations.StepIgnoredUnlessEnabled : Prop :=
  ∀ s : State, (¬ (s.run = true ∧ s.fault = 0) → stepEvent s = .next s) ∧ ∃ t, stepEvent s = .next t

/-- R81: the fetch is of the big-endian word at `PC`, which may be odd, as memory is now; above 0xFFE it is the fault 1. -/
def Obligations.FetchOutOfRangeFaults : Prop :=
  ∀ s : State,
    (s.pc.toNat ≤ 0xFFE → ∃ op, s.fetch = some op ∧
      op.toNat = (s.loadByte s.pc.toNat).toNat * 256 + (s.loadByte (s.pc.toNat + 1)).toNat) ∧
    (s.run = true → s.fault = 0 → 0xFFE < s.pc.toNat →
      ∃ t, stepEvent s = .next t ∧ t.fault.toNat = 1 ∧ t.faultPc = s.pc ∧ t.faultOp = 0x0000 ∧ OnlyFaultRegisters s t)

/-- Every event is applied whole and answers a next state; the machine is never stuck (R86, R160). -/
def Obligations.EveryStepAnswersNext : Prop := ∀ s : State, ∃ t, step s = .next t

/-! Faults. -/

/-- R85, R161 and R163: a fault comes from a STEP alone and is precise: nothing of the STEP is kept but the three fault registers
(and the event taken off the model's schedule); `FAULT_PC` is the address of the instruction, `FAULT_OP` its word, 0 for a fetch;
from then on STEP is not enabled. -/
def Obligations.FaultIsPrecise : Prop :=
  ∀ s t : State, s.fault = 0 → step s = .next t → t.fault ≠ 0 →
    s.nextEvent = .step ∧ OnlyFaultRegisters s.dropEvent t ∧ t.pc = s.pc ∧ t.faultPc = s.pc ∧ t.halted = true ∧
    stepEvent t = .next t ∧
    ((t.fault.toNat = 1 ∧ 0xFFE < s.pc.toNat ∧ t.faultOp = 0x0000) ∨
      (2 ≤ t.fault.toNat ∧ t.fault.toNat ≤ 6 ∧ s.pc.toNat ≤ 0xFFE ∧ t.faultOp = wordAtPc s))

/-- R162 with the priority of R164: an enabled STEP records exactly the fault whose condition holds, and none otherwise. -/
def Obligations.FaultExactlyWhen : Prop :=
  ∀ s t : State, s.run = true → s.fault = 0 → stepEvent s = .next t → ∀ code, code ≠ 0 →
    (t.fault.toNat = code ↔ (0xFFE < s.pc.toNat ∧ code = 1) ∨
      (s.pc.toNat ≤ 0xFFE ∧ ExecuteFault (decodeWord (wordAtPc s)) s code))

/-- R165 and R167, from states a run can reach: while a fault is recorded nothing but RESET changes the fault registers or `PC`,
`V`, `I`, `SP`, `Stack`, `Mem`, `FB`; STEP is ignored, LOAD refused, and SETKEY, START, STOP and TICK act as ever. -/
def Obligations.HaltedUntilReset : Prop :=
  ∀ s : State, s.Inv → s.fault ≠ 0 →
    (∀ e t, e ≠ .reset → applyEvent e s = .next t →
      { t with keys := s.keys, dt := s.dt, st := s.st, run := s.run } = s ∧ KeepsBytes s t ∧ t.halted = true) ∧
    applyEvent .step s = .next s ∧
    (∀ base bytes, applyEvent (.load base bytes) s = .next s ∧ loadStatus base.val bytes s = .loadRefused) ∧
    (∀ index pressed t, applyEvent (.setKey index pressed) s = .next t → t.keys[index.val] = pressed) ∧
    (∃ t, applyEvent .start s = .next t ∧ t.run = true) ∧ (∃ t, applyEvent .stop s = .next t ∧ t.run = false) ∧
    (s.run = true → ∃ t, applyEvent .tick s = .next t ∧ t.dt.toNat = s.dt.toNat - 1 ∧ t.st.toNat = s.st.toNat - 1 ∧
      (t.soundActive = true ↔ 1 < s.st.toNat))

/-! Reset and the host's events. -/

/-- R201 to R203: RESET is always enabled and gives every piece of state its reset value, whatever the state, and the state right
after reset has these values. -/
def Obligations.ResetGivesResetValues : Prop :=
  HasResetValues State.reset ∧
  ∀ s : State, ∃ t, applyEvent .reset s = .next t ∧ HasResetValues t

/-- RESET leaves nothing of the state but the model's own two fields, the draw counter and the schedule, which stand for inputs and
go on: the model's choice (log 14). -/
def Obligations.ResetKeepsOnlyTheInputs : Prop :=
  ∀ s : State, applyEvent .reset s = .next { State.reset with draws := s.draws, schedule := s.schedule }

/-- R184: LOAD is refused once started, overflows above 4096, else writes all its bytes and nothing else; `PC` is not set. -/
def Obligations.LoadIsAllOrNothing : Prop :=
  ∀ (base : Fin 4097) (bytes : List Byte) (s : State),
    (s.started = true → applyEvent (.load base bytes) s = .next s ∧ loadStatus base.val bytes s = .loadRefused) ∧
    (s.started = false → 4096 < base.val + bytes.length →
      applyEvent (.load base bytes) s = .next s ∧ loadStatus base.val bytes s = .loadOverflow) ∧
    (s.started = false → base.val + bytes.length ≤ 4096 → Memory.wf s.mem = true →
      ∃ t, applyEvent (.load base bytes) s = .next t ∧ loadStatus base.val bytes s = .ok ∧
        (∀ k (h : k < bytes.length), t.loadByte (base.val + k) = bytes[k]) ∧
        (∀ a, a < base.val ∨ base.val + bytes.length ≤ a → t.loadByte a = s.loadByte a) ∧
        { t with mem := s.mem } = s ∧ Memory.wf t.mem = true)

/-- R182, R183, R186: START sets `RUN` and `STARTED`, STOP clears `RUN`, SETKEY latches one key; nothing else changes, and none of
them clears a fault. After START a LOAD is refused, and a fault still disables STEP; after STOP neither STEP nor TICK has an
effect. -/
def Obligations.StartStopSetKey : Prop :=
  ∀ s : State,
    (∃ t, applyEvent .start s = .next t ∧ t.run = true ∧ t.started = true ∧
      { t with run := s.run, started := s.started } = s ∧ KeepsBytes s t ∧
      (s.run = true → s.started = true → t = s) ∧ (s.fault ≠ 0 → applyEvent .step t = .next t) ∧
      ∀ base bytes, applyEvent (.load base bytes) t = .next t ∧ loadStatus base.val bytes t = .loadRefused) ∧
    (∃ t, applyEvent .stop s = .next t ∧ t.run = false ∧ { t with run := s.run } = s ∧ KeepsBytes s t ∧
      applyEvent .step t = .next t ∧ applyEvent .tick t = .next t) ∧
    ∀ index pressed, ∃ t, applyEvent (.setKey index pressed) s = .next t ∧ t.keys[index.val] = pressed ∧
      (∀ k : Fin 16, k ≠ index → t.keys[k.val] = s.keys[k.val]) ∧ { t with keys := s.keys } = s ∧ KeepsBytes s t

/-- R171: with `RUN = 1`, halted or not, TICK lowers each timer by one, never below 0, and changes nothing else; with `RUN = 0` it
changes nothing. -/
def Obligations.TickCountsDown : Prop :=
  ∀ s : State,
    (s.run = true → ∃ t, applyEvent .tick s = .next t ∧ t.dt.toNat = s.dt.toNat - 1 ∧ t.st.toNat = s.st.toNat - 1 ∧
      (t.soundActive = true ↔ 1 < s.st.toNat) ∧ { t with dt := s.dt, st := s.st } = s ∧ KeepsBytes s t) ∧
    (s.run = false → applyEvent .tick s = .next s)

/-- The decay law of R171: over any run of TICK, STEP and SETKEY without an `Fx15`, `DT` falls by the number of TICKs and not below
0, however many STEPs lie between them. -/
def Obligations.DelayTimerDecaysByTicks : Prop :=
  ∀ (k : Nat) (s t : State), s.run = true → NoDelayWrite k s → Sys2Proof.core.run k s = .next t →
    t.dt.toNat = s.dt.toNat - (s.schedule.take k).count .tick

/-! Control transfer. -/

/-- R90: `00EE`. -/
def Obligations.ReturnPopsTheStack : Prop :=
  RowD8 0x00EE .ret ∧ ∀ (ignored : BitVec 4) (s : State),
    (0 < s.sp.val → ∃ t, exec (.ret ignored) s = .next t ∧ t.sp.val = s.sp.val - 1 ∧
      s.stack[t.sp.val]? = some t.pc ∧ OnlySp s t) ∧
    (s.sp.val = 0 → FaultsWith 3 (.ret ignored) s)

/-- R91: `1nnn`. -/
def Obligations.JumpSetsPc : Prop :=
  RowNNN 0x1000 .jpAddr ∧ ∀ (nnn : BitVec 12) (s : State),
    ∃ t, exec (.jpAddr nnn) s = .next t ∧ t.pc.toNat = nnn.toNat ∧ OnlyPc s t

/-- R92: `2nnn`. -/
def Obligations.CallPushesTheStack : Prop :=
  RowNNN 0x2000 .callAddr ∧ ∀ (nnn : BitVec 12) (s : State),
    (s.sp.val < 16 → ∃ t, exec (.callAddr nnn) s = .next t ∧
      (∃ saved, t.stack[s.sp.val]? = some saved ∧ saved.toNat = (s.pc.toNat + 2) % 65536) ∧
      (∀ k : Fin 16, k.val ≠ s.sp.val → t.stack[k.val] = s.stack[k.val]) ∧
      t.sp.val = s.sp.val + 1 ∧ t.pc.toNat = nnn.toNat ∧ OnlyStack s t) ∧
    (s.sp.val = 16 → FaultsWith 4 (.callAddr nnn) s)

/-- R93 and R94: `3xkk` and `4xkk`, each the other's complement. -/
def Obligations.SkipsOnImmediate : Prop :=
  RowXKK 0x3000 .seVxByte ∧ RowXKK 0x4000 .sneVxByte ∧ ∀ (x : Reg) (kk : Byte) (s : State),
    (∃ t, exec (.seVxByte x kk) s = .next t ∧
      (if (s.readV x).toNat = kk.toNat then PcPlus 4 s t else PcPlus 2 s t) ∧ OnlyPc s t) ∧
    (∃ t, exec (.sneVxByte x kk) s = .next t ∧
      (if (s.readV x).toNat = kk.toNat then PcPlus 2 s t else PcPlus 4 s t) ∧ OnlyPc s t)

/-! Register load, ALU, random. -/

/-- R101: `6xkk`. -/
def Obligations.LoadImmediate : Prop :=
  RowXKK 0x6000 .ldVxByte ∧ ∀ (x : Reg) (kk : Byte) (s : State),
    ∃ t, exec (.ldVxByte x kk) s = .next t ∧ t.readV x = kk ∧ KeepsVBut x s t ∧ PcPlus 2 s t ∧ OnlyV s t

/-- R102: `7xkk`, with the law of its property: twice `d` is `2d`. -/
def Obligations.AddImmediateWraps : Prop :=
  RowXKK 0x7000 .addVxByte ∧ ∀ (x : Reg) (kk : Byte) (s : State),
    ∃ t, exec (.addVxByte x kk) s = .next t ∧ (t.readV x).toNat = ((s.readV x).toNat + kk.toNat) % 256 ∧
      KeepsVBut x s t ∧ PcPlus 2 s t ∧ OnlyV s t ∧
      ∃ u, exec (.addVxByte x kk) t = .next u ∧ (u.readV x).toNat = ((s.readV x).toNat + 2 * kk.toNat) % 256

/-- R103: `8xy0`. -/
def Obligations.MoveRegister : Prop :=
  RowXYS 0x8000 .ldVxVy ∧ ∀ (x y : Reg) (s : State),
    ∃ t, exec (.ldVxVy x y) s = .next t ∧ t.readV x = s.readV y ∧ t.readV y = s.readV y ∧ KeepsVBut x s t ∧ PcPlus 2 s t ∧
      OnlyV s t

/-- R104, R105, R106: `8xy1`, `8xy2`, `8xy3`, bit by bit; `V[0xF]` is neither written nor cleared. -/
def Obligations.LogicOperations : Prop :=
  RowXYS 0x8001 .orVxVy ∧ RowXYS 0x8002 .andVxVy ∧ RowXYS 0x8003 .xorVxVy ∧ ∀ (x y : Reg) (s : State),
    (∃ t, exec (.orVxVy x y) s = .next t ∧
      (∀ b, (t.readV x).getLsbD b = ((s.readV x).getLsbD b || (s.readV y).getLsbD b)) ∧ KeepsVBut x s t ∧ PcPlus 2 s t ∧
      OnlyV s t) ∧
    (∃ t, exec (.andVxVy x y) s = .next t ∧
      (∀ b, (t.readV x).getLsbD b = ((s.readV x).getLsbD b && (s.readV y).getLsbD b)) ∧ KeepsVBut x s t ∧ PcPlus 2 s t ∧
      OnlyV s t) ∧
    (∃ t, exec (.xorVxVy x y) s = .next t ∧
      (∀ b, (t.readV x).getLsbD b = ((s.readV x).getLsbD b ^^ (s.readV y).getLsbD b)) ∧ KeepsVBut x s t ∧ PcPlus 2 s t ∧
      OnlyV s t)

/-- R107: `8xy4`; with `x = 0xF` the carry is what remains. -/
def Obligations.AddSetsCarry : Prop :=
  RowXYS 0x8004 .addVxVy ∧ ∀ (x y : Reg) (s : State),
    ∃ t, exec (.addVxVy x y) s = .next t ∧
      (x ≠ 0xF → (t.readV x).toNat = ((s.readV x).toNat + (s.readV y).toNat) % 256) ∧
      (t.readV 0xF).toNat = (if 255 < (s.readV x).toNat + (s.readV y).toNat then 1 else 0) ∧
      KeepsVButFlagAnd x s t ∧ PcPlus 2 s t ∧ OnlyV s t

/-- R108: `8xy5`; the flag is 1 exactly when a borrow occurred. -/
def Obligations.SubtractSetsBorrow : Prop :=
  RowXYS 0x8005 .subVxVy ∧ ∀ (x y : Reg) (s : State),
    ∃ t, exec (.subVxVy x y) s = .next t ∧
      (x ≠ 0xF → (t.readV x).toNat = if (s.readV y).toNat ≤ (s.readV x).toNat then (s.readV x).toNat - (s.readV y).toNat
        else (s.readV x).toNat + 256 - (s.readV y).toNat) ∧
      (t.readV 0xF).toNat = (if (s.readV x).toNat < (s.readV y).toNat then 1 else 0) ∧
      KeepsVButFlagAnd x s t ∧ PcPlus 2 s t ∧ OnlyV s t

/-- R109 and R110: `8xy6` and `8xyE` shift `V[y]` into `V[x]`; the flag is the bit shifted out. -/
def Obligations.ShiftsCaptureTheBit : Prop :=
  RowXYS 0x8006 .shrVxVy ∧ RowXYS 0x800E .shlVxVy ∧ ∀ (x y : Reg) (s : State),
    (∃ t, exec (.shrVxVy x y) s = .next t ∧ (x ≠ 0xF → (t.readV x).toNat = (s.readV y).toNat / 2) ∧
      (t.readV 0xF).toNat = (s.readV y).toNat % 2 ∧ KeepsVButFlagAnd x s t ∧ PcPlus 2 s t ∧ OnlyV s t) ∧
    (∃ t, exec (.shlVxVy x y) s = .next t ∧ (x ≠ 0xF → (t.readV x).toNat = (s.readV y).toNat * 2 % 256) ∧
      (t.readV 0xF).toNat = (s.readV y).toNat / 128 ∧ KeepsVButFlagAnd x s t ∧ PcPlus 2 s t ∧ OnlyV s t)

/-- `Cxkk` after R111: the result is some byte AND `kk`, whatever the byte is, so no bit outside `kk` is set. That the byte is the
next value of the free `Config.randomByte`, and the counter, are the model's own (log 2). -/
def Obligations.RandomIsMasked : Prop :=
  RowXKK 0xC000 .rndVxByte ∧ ∀ (x : Reg) (kk : Byte) (s : State),
    ∃ t, exec (.rndVxByte x kk) s = .next t ∧
      (∀ b, (t.readV x).getLsbD b = ((Config.randomByte s.draws).getLsbD b && kk.getLsbD b)) ∧
      t.readV x &&& ~~~kk = 0 ∧ t.draws = s.draws + 1 ∧ KeepsVBut x s t ∧ PcPlus 2 s t ∧ OnlyVAndDraws s t

/-! Index register and memory transfer. -/

/-- R120: `Annn`. -/
def Obligations.LoadIndex : Prop :=
  RowNNN 0xA000 .ldIAddr ∧ ∀ (nnn : BitVec 12) (s : State),
    ∃ t, exec (.ldIAddr nnn) s = .next t ∧ t.i.toNat = nnn.toNat ∧ PcPlus 2 s t ∧ OnlyI s t

/-- R121: `Fx29`, the full value, not masked, not wrapped. -/
def Obligations.GlyphAddressIsFiveTimes : Prop :=
  RowXD8 0xF029 .ldFVx ∧ ∀ (x : Reg) (s : State),
    ∃ t, exec (.ldFVx x) s = .next t ∧ t.i.toNat = (s.readV x).toNat * 5 ∧ PcPlus 2 s t ∧ OnlyI s t

/-- R122: `Fx33`, on a canonical memory (an invariant of every step, `Obligations.StepKeepsInv`). -/
def Obligations.StoreDecimalDigits : Prop :=
  RowXD8 0xF033 .ldBVx ∧ ∀ (x : Reg) (s : State),
    (s.i.toNat + 2 ≤ 4095 → Memory.wf s.mem = true → ∃ t, exec (.ldBVx x) s = .next t ∧
      (t.loadByte s.i.toNat).toNat = (s.readV x).toNat / 100 ∧
      (t.loadByte (s.i.toNat + 1)).toNat = (s.readV x).toNat / 10 % 10 ∧
      (t.loadByte (s.i.toNat + 2)).toNat = (s.readV x).toNat % 10 ∧
      OnlyBytes s.i.toNat 3 s t ∧ PcPlus 2 s t ∧ Memory.wf t.mem = true) ∧
    (4095 < s.i.toNat + 2 → FaultsWith 2 (.ldBVx x) s)

/-- R123: `Fx55`, on a canonical memory. -/
def Obligations.StoreRegisters : Prop :=
  RowXD8 0xF055 .ldMemVx ∧ ∀ (x : Reg) (s : State),
    (s.i.toNat + x.val ≤ 4095 → Memory.wf s.mem = true → ∃ t, exec (.ldMemVx x) s = .next t ∧
      (∀ k : Reg, k ≤ x → t.loadByte (s.i.toNat + k.val) = s.readV k) ∧
      OnlyBytes s.i.toNat (x.val + 1) s t ∧ PcPlus 2 s t ∧ Memory.wf t.mem = true) ∧
    (4095 < s.i.toNat + x.val → FaultsWith 2 (.ldMemVx x) s)

/-- R124: `Fx65`. -/
def Obligations.LoadRegisters : Prop :=
  RowXD8 0xF065 .ldVxMem ∧ ∀ (x : Reg) (s : State),
    (s.i.toNat + x.val ≤ 4095 → ∃ t, exec (.ldVxMem x) s = .next t ∧
      (∀ k : Reg, k ≤ x → t.readV k = s.loadByte (s.i.toNat + k.val)) ∧
      (∀ k : Reg, x < k → t.readV k = s.readV k) ∧ PcPlus 2 s t ∧ OnlyV s t) ∧
    (4095 < s.i.toNat + x.val → FaultsWith 2 (.ldVxMem x) s)

/-- The round trip of R124: what `Fx55` stored, `Fx65` from the same `I` loads, whatever the registers hold in between. -/
def Obligations.DumpThenLoadRestores : Prop :=
  ∀ (x : Reg) (s t t' : State), s.i.toNat + x.val ≤ 4095 → Memory.wf s.mem = true → exec (.ldMemVx x) s = .next t →
    t'.mem = t.mem → t'.i = t.i →
      ∃ u, exec (.ldVxMem x) t' = .next u ∧ ∀ k : Reg, k ≤ x → u.readV k = s.readV k

/-- R52: a word stored by `Fx55` is what a fetch at its address reads next, code or not. -/
def Obligations.StoredWordIsFetched : Prop :=
  ∀ (x k : Reg) (s t : State), s.i.toNat + x.val ≤ 4095 → Memory.wf s.mem = true → exec (.ldMemVx x) s = .next t →
    k < x → ∀ a : Word, a.toNat = s.i.toNat + k.val →
      ∃ op, (t.setPc a).fetch = some op ∧ op.toNat = (s.readV k).toNat * 256 + (s.readV (k + 1)).toNat

/-! Display. -/

/-- R130: `00E0`, with bits 11..8 ignored; `V[0xF]` is not written. -/
def Obligations.ClearScreen : Prop :=
  RowD8 0x00E0 .cls ∧ ∀ (ignored : BitVec 4) (s : State),
    ∃ t, exec (.cls ignored) s = .next t ∧ (∀ px py, t.pixelRead px py = false) ∧ PcPlus 2 s t ∧ OnlyFb s t

/-- R132: `Dxyn`. In range it turns over exactly the pixels under set sprite bits and `V[0xF]` says whether one of them was 1; a
source range outside memory is the fault 2, else a set bit outside the grid is the fault 5. -/
def Obligations.DrawSprite : Prop :=
  RowXYN 0xD000 .drwVxVyN ∧ ∀ (x y : Reg) (n : BitVec 4) (s : State),
    (SpriteInMemory s n → SpriteInGrid s x y n → ∃ t, exec (.drwVxVyN x y n) s = .next t ∧
      (∀ px py, (t.pixelRead px py = true ↔ ¬ (s.pixelRead px py = true ↔ SpriteCovers s x y n px py))) ∧
      ((∃ px py, SpriteCovers s x y n px py ∧ s.pixelRead px py = true) ∧ (t.readV 0xF).toNat = 1 ∨
        (¬ ∃ px py, SpriteCovers s x y n px py ∧ s.pixelRead px py = true) ∧ (t.readV 0xF).toNat = 0) ∧
      KeepsVBut 0xF s t ∧ PcPlus 2 s t ∧ OnlyFbAndV s t) ∧
    (¬ SpriteInMemory s n → FaultsWith 2 (.drwVxVyN x y n) s) ∧
    (SpriteInMemory s n → ¬ SpriteInGrid s x y n → FaultsWith 5 (.drwVxVyN x y n) s)

/-- R133 (a): the same draw twice restores every pixel; on pixels that were clear the first draw reports 0 and the second 1, unless
the sprite has no set bit, which reports 0 twice. (`V` is set back between the draws so that the coordinates are the same.) -/
def Obligations.DrawTwiceRestores : Prop :=
  ∀ (x y : Reg) (n : BitVec 4) (s t : State), s.fault = 0 → exec (.drwVxVyN x y n) s = .next t → t.fault = 0 →
    ∃ u, exec (.drwVxVyN x y n) { t with v := s.v } = .next u ∧ u.fb = s.fb ∧
      ((∀ px py, SpriteCovers s x y n px py → s.pixelRead px py = false) → (t.readV 0xF).toNat = 0 ∧
        ((∃ r c, SpriteBitSet s n r c) → (u.readV 0xF).toNat = 1)) ∧
      ((¬ ∃ r c, SpriteBitSet s n r c) → (t.readV 0xF).toNat = 0 ∧ (u.readV 0xF).toNat = 0)

/-! Keys and timers. -/

/-- R140 and R141: `Ex9E` and `ExA1` skip by the key the register's value names; above 15 the fault 6. -/
def Obligations.KeySkips : Prop :=
  RowXD8 0xE09E .skpVx ∧ RowXD8 0xE0A1 .sknpVx ∧ ∀ (x : Reg) (s : State),
    ((s.readV x).toNat ≤ 15 →
      (∃ t, exec (.skpVx x) s = .next t ∧
        (if s.keys[(s.readV x).toNat]? = some true then PcPlus 4 s t else PcPlus 2 s t) ∧ OnlyPc s t) ∧
      (∃ t, exec (.sknpVx x) s = .next t ∧
        (if s.keys[(s.readV x).toNat]? = some true then PcPlus 2 s t else PcPlus 4 s t) ∧ OnlyPc s t)) ∧
    (15 < (s.readV x).toNat → FaultsWith 6 (.skpVx x) s ∧ FaultsWith 6 (.sknpVx x) s)

/-- R142, R143, R144: `Fx07`, `Fx15`, `Fx18`, with the sound output. -/
def Obligations.TimerAccess : Prop :=
  RowXD8 0xF007 .ldVxDt ∧ RowXD8 0xF015 .ldDtVx ∧ RowXD8 0xF018 .ldStVx ∧ ∀ (x : Reg) (s : State),
    (∃ t, exec (.ldVxDt x) s = .next t ∧ t.readV x = s.dt ∧ KeepsVBut x s t ∧ PcPlus 2 s t ∧ OnlyV s t) ∧
    (∃ t, exec (.ldDtVx x) s = .next t ∧ t.dt = s.readV x ∧ PcPlus 2 s t ∧ OnlyDt s t) ∧
    (∃ t, exec (.ldStVx x) s = .next t ∧ t.st = s.readV x ∧ (t.soundActive = true ↔ 1 ≤ (s.readV x).toNat) ∧
      PcPlus 2 s t ∧ OnlySt s t)

/-! The machine as a whole. -/

/-- Who writes what, over all instructions (R11, R14, R18, R20 to R24, R30 to R34): each field but `PC`, which every instruction
advances, is changed by no instruction but its writers, the fault registers by no instruction but one that meets a condition of
R162, and `KEYS`, `RUN`, `STARTED` and the schedule by none. -/
def Obligations.EachFieldHasItsWriters : Prop :=
  ∀ (i : Instr) (s t : State), exec i s = .next t →
    (∀ r, t.readV r ≠ s.readV r → WritesV i r) ∧
    (t.i ≠ s.i → (∃ nnn, i = .ldIAddr nnn) ∨ ∃ x, i = .ldFVx x) ∧
    (t.sp ≠ s.sp → (∃ ignored, i = .ret ignored) ∨ ∃ nnn, i = .callAddr nnn) ∧
    (t.stack ≠ s.stack → ∃ nnn, i = .callAddr nnn) ∧
    (t.dt ≠ s.dt → ∃ x, i = .ldDtVx x) ∧
    (t.st ≠ s.st → ∃ x, i = .ldStVx x) ∧
    (t.fb ≠ s.fb → (∃ ignored, i = .cls ignored) ∨ ∃ x y n, i = .drwVxVyN x y n) ∧
    (t.mem ≠ s.mem → (∃ x, i = .ldBVx x) ∨ ∃ x, i = .ldMemVx x) ∧
    (t.draws ≠ s.draws → ∃ x kk, i = .rndVxByte x kk) ∧
    (t.fault ≠ s.fault ∨ t.faultPc ≠ s.faultPc ∨ t.faultOp ≠ s.faultOp → ExecuteFault i s t.fault.toNat) ∧
    t.keys = s.keys ∧ t.run = s.run ∧ t.started = s.started ∧ t.schedule = s.schedule

/-- R12: an instruction that changes `V[0xF]` is one of the five flag writers or names 0xF as its destination (or loads all sixteen
registers); a flag writer that does not fault leaves 0 or 1 there. -/
def Obligations.FlagRegisterHasItsWriters : Prop :=
  ∀ (i : Instr) (s t : State), exec i s = .next t →
    (t.readV 0xF ≠ s.readV 0xF →
      (∃ x y, i = .addVxVy x y ∨ i = .subVxVy x y ∨ i = .shrVxVy x y ∨ i = .shlVxVy x y) ∨ (∃ x y n, i = .drwVxVyN x y n) ∨
      (∃ kk, i = .ldVxByte 0xF kk ∨ i = .addVxByte 0xF kk ∨ i = .rndVxByte 0xF kk) ∨
      (∃ y, i = .ldVxVy 0xF y ∨ i = .orVxVy 0xF y ∨ i = .andVxVy 0xF y ∨ i = .xorVxVy 0xF y) ∨
      i = .ldVxDt 0xF ∨ i = .ldVxMem 0xF) ∧
    ((∃ x y, i = .addVxVy x y ∨ i = .subVxVy x y ∨ i = .shrVxVy x y ∨ i = .shlVxVy x y) ∨
      (∃ x y n, i = .drwVxVyN x y n ∧ s.fault = 0 ∧ t.fault = 0) → t.readV 0xF = 0x00 ∨ t.readV 0xF = 0x01)

/-- R30, R31, R163: no instruction reads `RUN`, `STARTED` or the fault registers. With other values there an instruction does the
same: one that meets a condition of R162 records the same fault, whatever the fault registers held, and any other keeps them. -/
def Obligations.NothingReadsTheLatches : Prop :=
  ∀ (i : Instr) (s t : State), exec i s = .next t →
    (∀ run started, exec i { s with run := run, started := started } = .next { t with run := run, started := started }) ∧
    (∀ fault faultPc faultOp, (∃ code, ExecuteFault i s code) →
      exec i { s with fault := fault, faultPc := faultPc, faultOp := faultOp } = .next t) ∧
    ∀ fault faultPc faultOp, (¬ ∃ code, ExecuteFault i s code) →
      exec i { s with fault := fault, faultPc := faultPc, faultOp := faultOp } =
        .next { t with fault := fault, faultPc := faultPc, faultOp := faultOp }

/-- R21, R22: no instruction reads `ST`, and only `Ex9E` and `ExA1` read `KEYS`. -/
def Obligations.SoundAndKeysAreHidden : Prop :=
  ∀ (i : Instr) (s t : State), exec i s = .next t →
    (∀ st, (¬ ∃ x, i = .ldStVx x) → exec i { s with st := st } = .next { t with st := st }) ∧
    (∀ st, (∃ x, i = .ldStVx x) → exec i { s with st := st } = .next t) ∧
    (∀ keys, (¬ ∃ x, i = .skpVx x ∨ i = .sknpVx x) → exec i { s with keys := keys } = .next { t with keys := keys })

/-- R55, R160: TICK and an instruction that is none of `Fx07`, `Fx15`, `Fx18` give the same in either order. -/
def Obligations.TickCommutesWithOtherInstructions : Prop :=
  ∀ (i : Instr) (s t : State), exec i s = .next t → (¬ ∃ x, i = .ldVxDt x ∨ i = .ldDtVx x ∨ i = .ldStVx x) →
    exec i (tickEvent s) = .next (tickEvent t)

/-- The stack discipline of R92 (the source's property S5): nested calls, at most sixteen deep, then `m` returns: the `m`-th return
goes to the address after the `m`-th last call, and `SP` is down by `m`. -/
def Obligations.NestedCallsReturnInOrder : Prop :=
  ∀ (targets : List (BitVec 12)) (ignored : BitVec 4) (s : State) (m : Nat), s.sp.val + targets.length ≤ 16 → 1 ≤ m →
    m ≤ targets.length →
      ∃ u, execAll (targets.map .callAddr ++ List.replicate m (.ret ignored)) s = .next u ∧
        u.sp.val + m = s.sp.val + targets.length ∧
        ((s.pc :: targets.map zextAddr)[targets.length - m]?).map (· + 2) = some u.pc

/-- R213: a finished program is a fixed point of STEP. -/
def Obligations.FinishedIsAFixedPoint : Prop := ∀ s : State, s.Finished → stepEvent s = .next s

/-- Canonical memories that read the same are the same data (the model's representation of R40). -/
def Obligations.CanonicalMemoriesAreEqual : Prop :=
  ∀ m m' : Memory, Memory.wf m = true → Memory.wf m' = true → (∀ a, Memory.read m a = Memory.read m' a) → m = m'

/-- The invariant (R17, R18, R27, R162, R165) is kept by every step, whatever event it is, from every state that has it. -/
def Obligations.StepKeepsInv : Prop := ∀ s t : State, s.Inv → step s = .next t → t.Inv

/-- The invariant holds after reset. -/
def Obligations.ResetMeetsInv : Prop := State.reset.Inv

/-- From reset, under every finite schedule of events (loads, starts, ticks, keys, steps in any order), every state reached has
the invariant; so `I <= 0xFFF` and `PC <= 0x1002` always (R17, R27). -/
def Obligations.ReachableStatesMeetInv : Prop :=
  ∀ (events : List Event) (k : Nat) (t : State),
    Sys2Proof.core.run k ({ State.reset with schedule := events } : State) = .next t → t.Inv
end

