-- ==== Sys2Proof/Laws/Decode.lean ====
section
/-! SUPPORT. The fields of a word and the words of the formats as numbers, the fields of a word built by each format, the word
rebuilt from its fields, and the bytes of a word: what the decoder's and the encoder's proofs rest on. -/

namespace Sys2Proof

/-! The fields as numbers (R61). -/

theorem opclass_toNat (op : Word) : (opclass op).toNat = op.toNat / 4096 := by
  have := op.isLt
  simp only [opclass, BitVec.extractLsb'_toNat, Nat.shiftRight_eq_div_pow]; omega

theorem bits11to8_toNat (op : Word) : (bits11to8 op).toNat = op.toNat / 256 % 16 := by
  simp only [bits11to8, BitVec.extractLsb'_toNat, Nat.shiftRight_eq_div_pow]

theorem regX_val (op : Word) : (regX op).val = op.toNat / 256 % 16 := bits11to8_toNat op

theorem regY_val (op : Word) : (regY op).val = op.toNat / 16 % 16 := by
  show (op.extractLsb' 4 4).toNat = _
  simp only [BitVec.extractLsb'_toNat, Nat.shiftRight_eq_div_pow]

theorem subop4_toNat (op : Word) : (subop4 op).toNat = op.toNat % 16 := by
  simp only [subop4, BitVec.extractLsb'_toNat, Nat.shiftRight_zero]

theorem imm8_toNat (op : Word) : (imm8 op).toNat = op.toNat % 256 := by
  simp only [imm8, BitVec.extractLsb'_toNat, Nat.shiftRight_zero]

theorem addr12_toNat (op : Word) : (addr12 op).toNat = op.toNat % 4096 := by
  simp only [addr12, BitVec.extractLsb'_toNat, Nat.shiftRight_zero]

theorem highByte_toNat (op : Word) : (highByte op).toNat = op.toNat / 256 := by
  have := op.isLt
  simp only [highByte, BitVec.extractLsb'_toNat, Nat.shiftRight_eq_div_pow]; omega

theorem lowByte_toNat (op : Word) : (lowByte op).toNat = op.toNat % 256 := imm8_toNat op

@[simp] theorem regBits_toNat (r : Reg) : (regBits r).toNat = r.val := rfl

/-! The words of the formats as numbers (R62). -/

theorem append_toNat {m n : Nat} (a : BitVec m) (b : BitVec n) : (a ++ b).toNat = a.toNat * 2 ^ n + b.toNat := by
  rw [BitVec.toNat_append, ← Nat.shiftLeft_add_eq_or_of_lt b.isLt, Nat.shiftLeft_eq]

theorem formNNN_toNat (o : BitVec 4) (nnn : BitVec 12) : (formNNN o nnn).toNat = o.toNat * 4096 + nnn.toNat :=
  append_toNat o nnn

theorem formXKK_toNat (o x : BitVec 4) (kk : Byte) :
    (formXKK o x kk).toNat = o.toNat * 4096 + x.toNat * 256 + kk.toNat := by
  have h := append_toNat (o ++ x) kk
  rw [append_toNat o x] at h
  rw [show formXKK o x kk = (o ++ x ++ kk : Word) from rfl, h]; omega

theorem formXYN_toNat (o x y n : BitVec 4) :
    (formXYN o x y n).toNat = o.toNat * 4096 + x.toNat * 256 + y.toNat * 16 + n.toNat := by
  have h := append_toNat (o ++ x ++ y) n
  rw [append_toNat (o ++ x) y, append_toNat o x] at h
  rw [show formXYN o x y n = (o ++ x ++ y ++ n : Word) from rfl, h]; omega

theorem wordOfBytes_toNat (hi lo : Byte) : (wordOfBytes hi lo).toNat = hi.toNat * 256 + lo.toNat := append_toNat hi lo

/-! The fields of a word of each format. -/

@[simp] theorem opclass_formNNN (o : BitVec 4) (nnn : BitVec 12) : opclass (formNNN o nnn) = o := by
  apply BitVec.eq_of_toNat_eq; rw [opclass_toNat, formNNN_toNat]; omega

@[simp] theorem addr12_formNNN (o : BitVec 4) (nnn : BitVec 12) : addr12 (formNNN o nnn) = nnn := by
  apply BitVec.eq_of_toNat_eq; rw [addr12_toNat, formNNN_toNat]; omega

@[simp] theorem imm8_formNNN (o : BitVec 4) (nnn : BitVec 12) : imm8 (formNNN o nnn) = nnn.setWidth 8 := by
  apply BitVec.eq_of_toNat_eq; rw [imm8_toNat, formNNN_toNat, BitVec.toNat_setWidth]; omega

@[simp] theorem subop4_formNNN (o : BitVec 4) (nnn : BitVec 12) : subop4 (formNNN o nnn) = nnn.setWidth 4 := by
  apply BitVec.eq_of_toNat_eq; rw [subop4_toNat, formNNN_toNat, BitVec.toNat_setWidth]; omega

@[simp] theorem opclass_formXKK (o x : BitVec 4) (kk : Byte) : opclass (formXKK o x kk) = o := by
  apply BitVec.eq_of_toNat_eq; rw [opclass_toNat, formXKK_toNat]; omega

@[simp] theorem bits11to8_formXKK (o x : BitVec 4) (kk : Byte) : bits11to8 (formXKK o x kk) = x := by
  apply BitVec.eq_of_toNat_eq; rw [bits11to8_toNat, formXKK_toNat]; omega

@[simp] theorem regX_formXKK (o : BitVec 4) (x : Reg) (kk : Byte) : regX (formXKK o (regBits x) kk) = x := by
  apply Fin.ext; rw [regX_val, formXKK_toNat, regBits_toNat]; omega

@[simp] theorem imm8_formXKK (o x : BitVec 4) (kk : Byte) : imm8 (formXKK o x kk) = kk := by
  apply BitVec.eq_of_toNat_eq; rw [imm8_toNat, formXKK_toNat]; omega

@[simp] theorem opclass_formXYN (o x y n : BitVec 4) : opclass (formXYN o x y n) = o := by
  apply BitVec.eq_of_toNat_eq; rw [opclass_toNat, formXYN_toNat]; omega

@[simp] theorem regX_formXYN (o : BitVec 4) (x : Reg) (y n : BitVec 4) : regX (formXYN o (regBits x) y n) = x := by
  apply Fin.ext; rw [regX_val, formXYN_toNat, regBits_toNat]; omega

@[simp] theorem regY_formXYN (o x : BitVec 4) (y : Reg) (n : BitVec 4) : regY (formXYN o x (regBits y) n) = y := by
  apply Fin.ext; rw [regY_val, formXYN_toNat, regBits_toNat]; omega

@[simp] theorem subop4_formXYN (o x y n : BitVec 4) : subop4 (formXYN o x y n) = n := by
  apply BitVec.eq_of_toNat_eq; rw [subop4_toNat, formXYN_toNat]; omega

/-! The word rebuilt from its fields, and from its bytes. -/

theorem formNNN_fields (op : Word) : formNNN (opclass op) (addr12 op) = op := by
  apply BitVec.eq_of_toNat_eq; rw [formNNN_toNat, opclass_toNat, addr12_toNat]; omega

theorem formXKK_fields (op : Word) : formXKK (opclass op) (bits11to8 op) (imm8 op) = op := by
  apply BitVec.eq_of_toNat_eq; rw [formXKK_toNat, opclass_toNat, bits11to8_toNat, imm8_toNat]; omega

@[simp] theorem regBits_regX (op : Word) : regBits (regX op) = bits11to8 op := rfl

theorem formXYN_fields (op : Word) : formXYN (opclass op) (bits11to8 op) (regBits (regY op)) (subop4 op) = op := by
  apply BitVec.eq_of_toNat_eq
  rw [formXYN_toNat, opclass_toNat, bits11to8_toNat, regBits_toNat, regY_val, subop4_toNat]; omega

@[simp] theorem wordOfBytes_bytes (op : Word) : wordOfBytes (highByte op) (lowByte op) = op := by
  apply BitVec.eq_of_toNat_eq; rw [wordOfBytes_toNat, highByte_toNat, lowByte_toNat]; omega

@[simp] theorem setWidth8_addr12 (op : Word) : (addr12 op).setWidth 8 = imm8 op := by
  apply BitVec.eq_of_toNat_eq; rw [BitVec.toNat_setWidth, addr12_toNat, imm8_toNat]; omega

@[simp] theorem setWidth4_addr12 (op : Word) : (addr12 op).setWidth 4 = subop4 op := by
  apply BitVec.eq_of_toNat_eq; rw [BitVec.toNat_setWidth, addr12_toNat, subop4_toNat]; omega

/-! The families of R65, one by one. -/

theorem decodeWord_family0 {op : Word} (h : opclass op = 0x0#4) : decodeWord op = decodeFamily0 op := by
  simp [decodeWord, h]

theorem decodeWord_family1 {op : Word} (h : opclass op = 0x1#4) : decodeWord op = .jpAddr (addr12 op) := by
  simp [decodeWord, h]

theorem decodeWord_family2 {op : Word} (h : opclass op = 0x2#4) : decodeWord op = .callAddr (addr12 op) := by
  simp [decodeWord, h]

theorem decodeWord_family3 {op : Word} (h : opclass op = 0x3#4) : decodeWord op = .seVxByte (regX op) (imm8 op) := by
  simp [decodeWord, h]

theorem decodeWord_family4 {op : Word} (h : opclass op = 0x4#4) : decodeWord op = .sneVxByte (regX op) (imm8 op) := by
  simp [decodeWord, h]

theorem decodeWord_family5 {op : Word} (h : opclass op = 0x5#4) : decodeWord op = .unlisted5 (addr12 op) := by
  simp [decodeWord, h]

theorem decodeWord_family6 {op : Word} (h : opclass op = 0x6#4) : decodeWord op = .ldVxByte (regX op) (imm8 op) := by
  simp [decodeWord, h]

theorem decodeWord_family7 {op : Word} (h : opclass op = 0x7#4) : decodeWord op = .addVxByte (regX op) (imm8 op) := by
  simp [decodeWord, h]

theorem decodeWord_family8 {op : Word} (h : opclass op = 0x8#4) : decodeWord op = decodeFamily8 op := by
  simp [decodeWord, h]

theorem decodeWord_family9 {op : Word} (h : opclass op = 0x9#4) : decodeWord op = .unlisted9 (addr12 op) := by
  simp [decodeWord, h]

theorem decodeWord_familyA {op : Word} (h : opclass op = 0xA#4) : decodeWord op = .ldIAddr (addr12 op) := by
  simp [decodeWord, h]

theorem decodeWord_familyB {op : Word} (h : opclass op = 0xB#4) : decodeWord op = .unlistedB (addr12 op) := by
  simp [decodeWord, h]

theorem decodeWord_familyC {op : Word} (h : opclass op = 0xC#4) : decodeWord op = .rndVxByte (regX op) (imm8 op) := by
  simp [decodeWord, h]

theorem decodeWord_familyD {op : Word} (h : opclass op = 0xD#4) : decodeWord op = .drwVxVyN (regX op) (regY op) (subop4 op) := by
  simp [decodeWord, h]

theorem decodeWord_familyE {op : Word} (h : opclass op = 0xE#4) : decodeWord op = decodeFamilyE op := by
  simp [decodeWord, h]

theorem decodeWord_familyF {op : Word} (h : opclass op = 0xF#4) : decodeWord op = decodeFamilyF op := by
  simp [decodeWord, h]

/-- The family of a word is one of the sixteen. -/
theorem opclass_cases (op : Word) :
    opclass op = 0x0#4 ∨ opclass op = 0x1#4 ∨ opclass op = 0x2#4 ∨ opclass op = 0x3#4 ∨ opclass op = 0x4#4 ∨
      opclass op = 0x5#4 ∨ opclass op = 0x6#4 ∨ opclass op = 0x7#4 ∨ opclass op = 0x8#4 ∨ opclass op = 0x9#4 ∨
      opclass op = 0xA#4 ∨ opclass op = 0xB#4 ∨ opclass op = 0xC#4 ∨ opclass op = 0xD#4 ∨ opclass op = 0xE#4 ∨
      opclass op = 0xF#4 := by
  generalize opclass op = c
  have h : ∀ k : Fin 16, BitVec.ofFin k = 0x0#4 ∨ BitVec.ofFin k = 0x1#4 ∨ BitVec.ofFin k = 0x2#4 ∨
      BitVec.ofFin k = 0x3#4 ∨ BitVec.ofFin k = 0x4#4 ∨ BitVec.ofFin k = 0x5#4 ∨ BitVec.ofFin k = 0x6#4 ∨
      BitVec.ofFin k = 0x7#4 ∨ BitVec.ofFin k = 0x8#4 ∨ BitVec.ofFin k = 0x9#4 ∨ BitVec.ofFin k = 0xA#4 ∨
      BitVec.ofFin k = 0xB#4 ∨ BitVec.ofFin k = 0xC#4 ∨ BitVec.ofFin k = 0xD#4 ∨ BitVec.ofFin k = 0xE#4 ∨
      BitVec.ofFin k = 0xF#4 := by decide
  exact h c.toFin

/-! Decoding bytes. -/

@[simp] theorem decode_two (hi lo : Byte) (rest : List Byte) :
    decode (hi :: lo :: rest) = .ok (decodeWord (wordOfBytes hi lo), rest) := rfl

theorem decode_encodeBytes_append (i : Instr) (rest : List Byte) :
    decode (encodeBytes i ++ rest) = .ok (decodeWord (encode i), rest) := by
  simp [encodeBytes]

/-! A word's row of the opcode map, read off its fields: the masks of R62. -/

theorem and_F000 (op : Word) : op &&& 0xF000#16 = formNNN (opclass op) 0 := by
  apply BitVec.eq_of_getLsbD_eq
  intro k hk
  simp only [formNNN, opclass, BitVec.getLsbD_and, BitVec.getLsbD_append, BitVec.getLsbD_extractLsb']
  rcases Nat.lt_or_ge k 12 with h | h
  · rw [show (0xF000#16).getLsbD k = false by revert k; decide]; simp [h]
  · rw [show (0xF000#16).getLsbD k = true by revert k; decide]
    simp [show ¬ k < 12 by omega, show 12 + (k - 12) = k by omega, show k - 12 < 4 by omega]

theorem and_F0FF (op : Word) : op &&& 0xF0FF#16 = formXKK (opclass op) 0 (imm8 op) := by
  apply BitVec.eq_of_getLsbD_eq
  intro k hk
  simp only [formXKK, opclass, imm8, BitVec.getLsbD_and, BitVec.getLsbD_append, BitVec.getLsbD_extractLsb']
  rcases Nat.lt_or_ge k 8 with h | h
  · rw [show (0xF0FF#16).getLsbD k = true by revert k; decide]; simp [h]
  · rcases Nat.lt_or_ge k 12 with h2 | h2
    · rw [show (0xF0FF#16).getLsbD k = false by revert k; decide]
      simp [show ¬ k < 8 by omega, show k - 8 < 4 by omega]
    · rw [show (0xF0FF#16).getLsbD k = true by revert k; decide]
      simp [show ¬ k < 8 by omega, show ¬ k - 8 < 4 by omega, show 12 + (k - 8 - 4) = k by omega,
        show k - 8 - 4 < 4 by omega]

theorem and_F00F (op : Word) : op &&& 0xF00F#16 = formXYN (opclass op) 0 0 (subop4 op) := by
  apply BitVec.eq_of_getLsbD_eq
  intro k hk
  simp only [formXYN, opclass, subop4, BitVec.getLsbD_and, BitVec.getLsbD_append, BitVec.getLsbD_extractLsb']
  rcases Nat.lt_or_ge k 4 with h | h
  · rw [show (0xF00F#16).getLsbD k = true by revert k; decide]; simp [h]
  · rcases Nat.lt_or_ge k 12 with h2 | h2
    · rw [show (0xF00F#16).getLsbD k = false by revert k; decide]
      by_cases h3 : k - 4 < 4
      · simp [show ¬ k < 4 by omega, h3]
      · simp [show ¬ k < 4 by omega, h3, show k - 4 - 4 < 4 by omega]
    · rw [show (0xF00F#16).getLsbD k = true by revert k; decide]
      simp [show ¬ k < 4 by omega, show ¬ k - 4 < 4 by omega, show ¬ k - 4 - 4 < 4 by omega,
        show 12 + (k - 4 - 4 - 4) = k by omega, show k - 4 - 4 - 4 < 4 by omega]

theorem formNNN_inj {o o' : BitVec 4} {a a' : BitVec 12} (h : formNNN o a = formNNN o' a') : o = o' ∧ a = a' :=
  ⟨by simpa using congrArg opclass h, by simpa using congrArg addr12 h⟩

theorem formXKK_inj {o o' x x' : BitVec 4} {k k' : Byte} (h : formXKK o x k = formXKK o' x' k') :
    o = o' ∧ x = x' ∧ k = k' :=
  ⟨by simpa using congrArg opclass h, by simpa using congrArg bits11to8 h, by simpa using congrArg imm8 h⟩

end Sys2Proof
end

