-- ==== Sys2Proof/Laws/Memory.lean ====
section
/-! SUPPORT. The laws of `Mem`: read after write, the run of bytes, and the canonical form that every operation keeps and that
makes equal memories equal data. -/

namespace Sys2Proof.Machine

theorem Memory.read_nil (a : Nat) : Memory.read [] a = Memory.resetByte a := rfl

theorem Memory.read_cons (b : Nat) (w : Byte) (rest : Memory) (a : Nat) :
    Memory.read ((b, w) :: rest) a = if a = b then w else Memory.read rest a := rfl

/-- Below the first address of a canonical list nothing is listed. -/
theorem Memory.read_below {lo a : Nat} {m : Memory} (h : Memory.wfFrom lo m = true) (ha : a < lo) :
    Memory.read m a = Memory.resetByte a := by
  induction m generalizing lo with
  | nil => rfl
  | cons cell rest ih =>
    obtain ⟨b, w⟩ := cell
    simp only [Memory.wfFrom, Bool.and_eq_true, decide_eq_true_eq] at h
    rw [Memory.read_cons, if_neg (by omega), ih h.2 (by omega)]

theorem Memory.wfFrom_mono {lo lo' : Nat} {m : Memory} (h : Memory.wfFrom lo m = true) (hle : lo' ≤ lo) :
    Memory.wfFrom lo' m = true := by
  cases m with
  | nil => rfl
  | cons cell rest =>
    simp only [Memory.wfFrom, Bool.and_eq_true, decide_eq_true_eq] at h ⊢
    exact ⟨⟨⟨by omega, h.1.1.2⟩, h.1.2⟩, h.2⟩

/-- A cell put before higher addresses reads as it was written. -/
theorem Memory.read_putCell {a : Nat} {w : Byte} {rest : Memory} (h : Memory.wfFrom (a + 1) rest = true) (b : Nat) :
    Memory.read (Memory.putCell a w rest) b = if b = a then w else Memory.read rest b := by
  unfold Memory.putCell
  split
  · split
    · next hw hb => rw [hb, Memory.read_below h (by omega), hw]
    · rfl
  · rfl

theorem Memory.wfFrom_putCell {lo a : Nat} {w : Byte} {rest : Memory} (hlo : lo ≤ a) (ha : a < Config.memSize)
    (h : Memory.wfFrom (a + 1) rest = true) : Memory.wfFrom lo (Memory.putCell a w rest) = true := by
  unfold Memory.putCell
  split
  · exact Memory.wfFrom_mono h (by omega)
  · next hw => simp [Memory.wfFrom, hlo, ha, hw, h]

/-- What one write does: the address reads as written and every other address as before, and the canonical form is kept. -/
theorem Memory.write_spec {lo a : Nat} {m : Memory} (h : Memory.wfFrom lo m = true) (hlo : lo ≤ a)
    (ha : a < Config.memSize) (w : Byte) :
    Memory.wfFrom lo (Memory.write m a w) = true ∧
      ∀ b, Memory.read (Memory.write m a w) b = if b = a then w else Memory.read m b := by
  induction m generalizing lo with
  | nil => exact ⟨Memory.wfFrom_putCell hlo ha rfl, Memory.read_putCell rfl⟩
  | cons cell rest ih =>
    obtain ⟨c, u⟩ := cell
    have hc := h
    simp only [Memory.wfFrom, Bool.and_eq_true, decide_eq_true_eq] at hc
    obtain ⟨⟨⟨h1, h2⟩, h3⟩, h4⟩ := hc
    unfold Memory.write
    split
    · next hlt =>
      have hrest : Memory.wfFrom (a + 1) ((c, u) :: rest) = true := by
        simp [Memory.wfFrom, h2, h3, h4]; omega
      exact ⟨Memory.wfFrom_putCell hlo ha hrest, Memory.read_putCell hrest⟩
    · split
      · next heq =>
        subst heq
        refine ⟨Memory.wfFrom_putCell hlo ha h4, fun b => ?_⟩
        rw [Memory.read_putCell h4, Memory.read_cons]
        split <;> simp_all
      · next hnlt hne =>
        obtain ⟨ih1, ih2⟩ := ih h4 (by omega)
        refine ⟨by simp [Memory.wfFrom, h1, h2, h3, ih1], fun b => ?_⟩
        rw [Memory.read_cons, Memory.read_cons, ih2]
        by_cases hb : b = c
        · simp [hb, Ne.symm hne]
        · simp [hb]

theorem Memory.wf_write {m : Memory} (h : Memory.wf m = true) {a : Nat} (ha : a < Config.memSize) (w : Byte) :
    Memory.wf (Memory.write m a w) = true := (Memory.write_spec h (Nat.zero_le a) ha w).1

theorem Memory.read_write {m : Memory} (h : Memory.wf m = true) {a : Nat} (ha : a < Config.memSize) (w : Byte) (b : Nat) :
    Memory.read (Memory.write m a w) b = if b = a then w else Memory.read m b :=
  (Memory.write_spec h (Nat.zero_le a) ha w).2 b

/-- What a run of bytes does: inside the run the bytes, outside it as before, and the canonical form is kept. -/
theorem Memory.writeBytes_spec {m : Memory} (h : Memory.wf m = true) {base : Nat} {bytes : List Byte}
    (hr : base + bytes.length ≤ Config.memSize) :
    Memory.wf (Memory.writeBytes m base bytes) = true ∧
      ∀ a, Memory.read (Memory.writeBytes m base bytes) a =
        if base ≤ a then (bytes[a - base]?).getD (Memory.read m a) else Memory.read m a := by
  induction bytes generalizing m base with
  | nil => exact ⟨h, fun a => by simp [Memory.writeBytes]⟩
  | cons w rest ih =>
    simp only [List.length_cons] at hr
    have hb : base < Config.memSize := by omega
    obtain ⟨ih1, ih2⟩ := ih (Memory.wf_write h hb w) (base := base + 1) (by omega)
    refine ⟨ih1, fun a => ?_⟩
    rw [Memory.writeBytes, ih2, Memory.read_write h hb]
    by_cases h1 : a = base
    · simp [h1]
    · by_cases h2 : base ≤ a
      · rw [if_pos (by omega), if_pos h2, if_neg h1, show a - base = (a - (base + 1)) + 1 by omega,
          List.getElem?_cons_succ]
      · rw [if_neg (by omega), if_neg h2, if_neg h1]

theorem Memory.wf_writeBytes {m : Memory} (h : Memory.wf m = true) {base : Nat} {bytes : List Byte}
    (hr : base + bytes.length ≤ Config.memSize) : Memory.wf (Memory.writeBytes m base bytes) = true :=
  (Memory.writeBytes_spec h hr).1

theorem Memory.read_writeBytes {m : Memory} (h : Memory.wf m = true) {base : Nat} {bytes : List Byte}
    (hr : base + bytes.length ≤ Config.memSize) (a : Nat) :
    Memory.read (Memory.writeBytes m base bytes) a =
      if base ≤ a then (bytes[a - base]?).getD (Memory.read m a) else Memory.read m a :=
  (Memory.writeBytes_spec h hr).2 a

theorem Memory.wf_nil : Memory.wf [] = true := rfl

theorem rangeOk_iff {base len : Nat} : rangeOk base len = true ↔ len = 0 ∨ base + len ≤ 4096 := by
  simp only [rangeOk, Bool.or_eq_true, decide_eq_true_eq]
  exact Iff.rfl

end Sys2Proof.Machine
end

