-- ==== Sys2Proof/Laws/Pixels.lean ====
section
/-! SUPPORT. The laws of the framebuffer and of the sprite compositor: what a toggle does to every pixel, and what a whole draw
answers, pixel by pixel, with its collision bit and its fault. -/

namespace Sys2Proof.Machine

theorem inGrid_iff {px py : Nat} : inGrid px py = true ↔ px < 64 ∧ py < 32 := by
  simp only [inGrid, Bool.and_eq_true, decide_eq_true_eq]
  exact Iff.rfl

theorem Framebuffer.pixel_of_lt (fb : Framebuffer) {px py : Nat} (hx : px < 64) (hy : py < 32) :
    fb.pixel px py = (fb[py])[px] := by simp [Framebuffer.pixel, hx, hy]

/-- Two framebuffers with the same pixels are one. -/
theorem Framebuffer.ext_pixel {fb fb' : Framebuffer} (h : ∀ px py, px < 64 → py < 32 → fb'.pixel px py = fb.pixel px py) :
    fb' = fb := by
  refine Vector.ext fun py hy => Vector.ext fun px hx => ?_
  have := h px py hx hy
  rwa [Framebuffer.pixel_of_lt _ hx hy, Framebuffer.pixel_of_lt _ hx hy] at this

theorem Framebuffer.pixel_blank (px py : Nat) : Framebuffer.blank.pixel px py = false := by
  unfold Framebuffer.pixel Framebuffer.blank
  split
  · split
    · rw [Vector.getElem_replicate, Vector.getElem_replicate]
    · rfl
  · rfl

/-- A toggle inside the grid turns its own pixel over and no other. -/
theorem Framebuffer.pixel_toggle (fb : Framebuffer) {px py : Nat} (h : inGrid px py = true) (qx qy : Nat) :
    (fb.toggle px py).pixel qx qy = (fb.pixel qx qy ^^ decide (qx = px ∧ qy = py)) := by
  obtain ⟨hx, hy⟩ := inGrid_iff.mp h
  unfold Framebuffer.toggle
  rw [dif_pos hy, dif_pos hx]
  by_cases hqy : qy < 32
  · by_cases hqx : qx < 64
    · rw [Framebuffer.pixel_of_lt _ hqx hqy, Framebuffer.pixel_of_lt _ hqx hqy, Vector.getElem_set]
      by_cases e : py = qy
      · subst e
        rw [if_pos rfl, Vector.getElem_set]
        by_cases e' : px = qx
        · subst e'; simp
        · simp [e', Ne.symm e']
      · simp [e, Ne.symm e]
    · simp [Framebuffer.pixel, hqx, show qx ≠ px by omega]
  · simp [Framebuffer.pixel, hqy, show qy ≠ py by omega]

/-- What one sprite bit does: fatal exactly when it is set and outside the grid, else the pixel and the collision bit. -/
theorem plot_spec (bit : Bool) (px py : Nat) (cv : Canvas) (h : bit = true → inGrid px py = true) :
    ∃ cv', plot bit px py cv = .ok cv' ∧
      (∀ qx qy, cv'.fb.pixel qx qy = (cv.fb.pixel qx qy ^^ decide (bit = true ∧ qx = px ∧ qy = py))) ∧
      (cv'.coll = true ↔ cv.coll = true ∨ (bit = true ∧ cv.fb.pixel px py = true)) := by
  cases bit with
  | false =>
    by_cases hg : inGrid px py = true
    · exact ⟨_, by rw [plot, if_pos hg], fun _ _ => by simp, by simp⟩
    · exact ⟨cv, by simp [plot, hg], fun _ _ => by simp, by simp⟩
  | true =>
    have hg := h rfl
    exact ⟨_, by rw [plot, if_pos hg], fun qx qy => by simpa using Framebuffer.pixel_toggle cv.fb hg qx qy, by simp⟩

theorem plot_error {px py : Nat} (cv : Canvas) (h : inGrid px py = false) : plot true px py cv = .error .fbRange := by
  simp [plot, h]

/-- What a sprite row does when every set bit of its first `k` columns is inside the grid. -/
theorem drawColumns_spec (row x0 : Byte) (py : Nat) (cv : Canvas) (k : Nat)
    (h : ∀ c < k, spriteBit row c = true → inGrid (spriteX x0 c) py = true) :
    ∃ cv', drawColumns row x0 py cv k = .ok cv' ∧
      (∀ qx qy, (cv'.fb.pixel qx qy = (cv.fb.pixel qx qy ^^
        decide (∃ c < k, spriteBit row c = true ∧ qx = spriteX x0 c ∧ qy = py)))) ∧
      (cv'.coll = true ↔ cv.coll = true ∨ ∃ c < k, spriteBit row c = true ∧ cv.fb.pixel (spriteX x0 c) py = true) := by
  induction k with
  | zero => exact ⟨cv, rfl, fun _ _ => by simp, by simp⟩
  | succ c ih =>
    obtain ⟨cv1, h1, p1, c1⟩ := ih fun c' hc' => h c' (by omega)
    obtain ⟨cv2, h2, p2, c2⟩ := plot_spec (spriteBit row c) (spriteX x0 c) py cv1 (h c (by omega))
    refine ⟨cv2, by rw [drawColumns, h1]; exact h2, fun qx qy => ?_, ?_⟩
    · rw [p2, p1, Bool.xor_assoc]
      congr 1
      by_cases hb : spriteBit row c = true ∧ qx = spriteX x0 c ∧ qy = py
      · have hno : ¬ ∃ c' < c, spriteBit row c' = true ∧ qx = spriteX x0 c' ∧ qy = py := by
          rintro ⟨c', hlt, -, hq, -⟩
          have := hb.2.1
          simp only [spriteX] at hq this
          omega
        rw [decide_eq_false hno, decide_eq_true hb, decide_eq_true ⟨c, by omega, hb⟩]; rfl
      · rw [decide_eq_false hb, Bool.xor_false, decide_eq_decide]
        constructor
        · rintro ⟨c', hlt, hc'⟩; exact ⟨c', by omega, hc'⟩
        · rintro ⟨c', hlt, hc'⟩
          rcases Nat.lt_succ_iff_lt_or_eq.mp hlt with hl | rfl
          · exact ⟨c', hl, hc'⟩
          · exact absurd hc' hb
    · rw [c2, c1, p1]
      have hno : ¬ ∃ c' < c, spriteBit row c' = true ∧ spriteX x0 c = spriteX x0 c' ∧ py = py := by
        rintro ⟨c', hlt, -, hq, -⟩
        simp only [spriteX] at hq
        omega
      rw [decide_eq_false hno, Bool.xor_false]
      constructor
      · rintro ((h' | ⟨c', hl, hc'⟩) | h')
        · exact .inl h'
        · exact .inr ⟨c', by omega, hc'⟩
        · exact .inr ⟨c, by omega, h'⟩
      · rintro (h' | ⟨c', hl, hc'⟩)
        · exact .inl (.inl h')
        · rcases Nat.lt_succ_iff_lt_or_eq.mp hl with hl | rfl
          · exact .inl (.inr ⟨c', hl, hc'⟩)
          · exact .inr hc'

/-- A sprite row with a set bit outside the grid is fatal. -/
theorem drawColumns_error (row x0 : Byte) (py : Nat) (cv : Canvas) (k : Nat)
    (h : ∃ c < k, spriteBit row c = true ∧ inGrid (spriteX x0 c) py = false) :
    drawColumns row x0 py cv k = .error .fbRange := by
  induction k with
  | zero => obtain ⟨c, hc, -⟩ := h; omega
  | succ c ih =>
    by_cases hlow : ∃ c' < c, spriteBit row c' = true ∧ inGrid (spriteX x0 c') py = false
    · rw [drawColumns, ih hlow]; rfl
    · have hok : ∀ c' < c, spriteBit row c' = true → inGrid (spriteX x0 c') py = true := by
        intro c' hc' hb
        by_contra hg
        exact hlow ⟨c', hc', hb, by simpa using hg⟩
      obtain ⟨c', hc', hb, hg⟩ := h
      have : c' = c := by
        by_contra hne
        exact hlow ⟨c', by omega, hb, hg⟩
      subst this
      obtain ⟨cv1, h1, -⟩ := drawColumns_spec row x0 py cv c' hok
      rw [drawColumns, h1]
      show plot (spriteBit row c') (spriteX x0 c') py cv1 = _
      rw [hb, plot_error _ hg]

/-- The pixel (`qx`, `qy`) is the target of a set bit of the first `k` rows of the sprite (R131). -/
def Covers (rowByte : Nat → Byte) (x0 y0 : Byte) (k qx qy : Nat) : Prop :=
  ∃ r < k, ∃ c < 8, spriteBit (rowByte r) c = true ∧ qx = spriteX x0 c ∧ qy = spriteY y0 r

/-- What a whole draw answers when every set bit is inside the grid: each covered pixel is turned over and no other, and the
collision bit says whether a covered pixel was 1 (R132, R133). -/
theorem drawRows_spec (rowByte : Nat → Byte) (x0 y0 : Byte) (cv : Canvas) (k : Nat)
    (h : ∀ qx qy, Covers rowByte x0 y0 k qx qy → inGrid qx qy = true) :
    ∃ cv', drawRows rowByte x0 y0 cv k = .ok cv' ∧
      (∀ qx qy, (cv'.fb.pixel qx qy = true ↔ (cv.fb.pixel qx qy = true ↔ ¬ Covers rowByte x0 y0 k qx qy))) ∧
      (cv'.coll = true ↔ cv.coll = true ∨ ∃ qx qy, Covers rowByte x0 y0 k qx qy ∧ cv.fb.pixel qx qy = true) := by
  induction k with
  | zero => exact ⟨cv, rfl, fun _ _ => by simp [Covers], by simp [Covers]⟩
  | succ r ih =>
    obtain ⟨cv1, h1, p1, c1⟩ := ih fun qx qy ⟨r', hr', hc⟩ => h qx qy ⟨r', by omega, hc⟩
    obtain ⟨cv2, h2, p2, c2⟩ := drawColumns_spec (rowByte r) x0 (spriteY y0 r) cv1 8
      fun c hc hb => h _ _ ⟨r, by omega, c, hc, hb, rfl, rfl⟩
    have split : ∀ qx qy, Covers rowByte x0 y0 (r + 1) qx qy ↔ Covers rowByte x0 y0 r qx qy ∨
        ∃ c < 8, spriteBit (rowByte r) c = true ∧ qx = spriteX x0 c ∧ qy = spriteY y0 r := by
      intro qx qy
      constructor
      · rintro ⟨r', hr', hc⟩
        rcases Nat.lt_succ_iff_lt_or_eq.mp hr' with hl | rfl
        · exact .inl ⟨r', hl, hc⟩
        · exact .inr hc
      · rintro (⟨r', hr', hc⟩ | hc)
        · exact ⟨r', by omega, hc⟩
        · exact ⟨r, by omega, hc⟩
    have apart : ∀ qx qy, (∃ c < 8, spriteBit (rowByte r) c = true ∧ qx = spriteX x0 c ∧ qy = spriteY y0 r) →
        ¬ Covers rowByte x0 y0 r qx qy := by
      rintro qx qy ⟨_, _, _, _, hy⟩ ⟨r', hr', _, _, _, _, hy'⟩
      simp only [spriteY] at hy hy'
      omega
    refine ⟨cv2, by rw [drawRows, h1]; exact h2, fun qx qy => ?_, ?_⟩
    · rw [p2, split]
      have hp := p1 qx qy
      by_cases hn : ∃ c < 8, spriteBit (rowByte r) c = true ∧ qx = spriteX x0 c ∧ qy = spriteY y0 r
      · rw [decide_eq_true hn]
        have ha := apart qx qy hn
        simp only [hn, or_true, not_true_eq_false, iff_false]
        simp only [ha, not_false_eq_true, iff_true] at hp
        rw [← hp]; simp
      · rw [decide_eq_false hn]
        simp only [hn, or_false, Bool.xor_false]
        exact hp
    · rw [c2, c1]
      constructor
      · rintro ((h' | ⟨qx, qy, hc, hp⟩) | ⟨c, hc, hb, hp⟩)
        · exact .inl h'
        · exact .inr ⟨qx, qy, (split qx qy).mpr (.inl hc), hp⟩
        · have hn : ∃ c' < 8, spriteBit (rowByte r) c' = true ∧ spriteX x0 c = spriteX x0 c' ∧
              spriteY y0 r = spriteY y0 r := ⟨c, hc, hb, rfl, rfl⟩
          exact .inr ⟨_, _, (split _ _).mpr (.inr hn), by
            have := (p1 (spriteX x0 c) (spriteY y0 r)).mp hp
            exact this.mpr (apart _ _ hn)⟩
      · rintro (h' | ⟨qx, qy, hc, hp⟩)
        · exact .inl (.inl h')
        · rcases (split qx qy).mp hc with hc | hn
          · exact .inl (.inr ⟨qx, qy, hc, hp⟩)
          · have ha := apart _ _ hn
            obtain ⟨c, hc8, hb, rfl, rfl⟩ := hn
            exact .inr ⟨c, hc8, hb, (p1 _ _).mpr (by simp [ha, hp])⟩

/-- A draw with a set bit outside the grid is fatal (D8). -/
theorem drawRows_error (rowByte : Nat → Byte) (x0 y0 : Byte) (cv : Canvas) (k : Nat)
    (h : ∃ qx qy, Covers rowByte x0 y0 k qx qy ∧ inGrid qx qy = false) :
    drawRows rowByte x0 y0 cv k = .error .fbRange := by
  induction k with
  | zero => obtain ⟨_, _, ⟨r, hr, _⟩, _⟩ := h; omega
  | succ r ih =>
    by_cases hlow : ∃ qx qy, Covers rowByte x0 y0 r qx qy ∧ inGrid qx qy = false
    · rw [drawRows, ih hlow]; rfl
    · have hok : ∀ qx qy, Covers rowByte x0 y0 r qx qy → inGrid qx qy = true := by
        intro qx qy hc
        by_contra hg
        exact hlow ⟨qx, qy, hc, by simpa using hg⟩
      obtain ⟨qx, qy, ⟨r', hr', c, hc, hb, rfl, rfl⟩, hg⟩ := h
      have : r' = r := by
        by_contra hne
        exact hlow ⟨_, _, ⟨r', by omega, c, hc, hb, rfl, rfl⟩, hg⟩
      subst this
      obtain ⟨cv1, h1, -⟩ := drawRows_spec rowByte x0 y0 cv r' hok
      rw [drawRows, h1]
      exact drawColumns_error _ _ _ _ _ ⟨c, hc, hb, hg⟩

end Sys2Proof.Machine
end

