-- ==== Sys2Proof/Laws/State.lean ====
section
/-! SUPPORT. One lemma for each field under each update of the state, true by rfl and tagged simp, so that no proof unfolds a
record update; for an update with a condition or a recursion, the fields it never changes. -/

namespace Sys2Proof.Machine

variable (s : State)

/-! `State.writeV` -/

@[simp] theorem State.writeV_mem (x : Reg) (b : Byte) : (s.writeV x b).mem = s.mem := rfl
@[simp] theorem State.writeV_v (x : Reg) (b : Byte) : (s.writeV x b).v = s.v.set x.val b := rfl
@[simp] theorem State.writeV_i (x : Reg) (b : Byte) : (s.writeV x b).i = s.i := rfl
@[simp] theorem State.writeV_pc (x : Reg) (b : Byte) : (s.writeV x b).pc = s.pc := rfl
@[simp] theorem State.writeV_sp (x : Reg) (b : Byte) : (s.writeV x b).sp = s.sp := rfl
@[simp] theorem State.writeV_stack (x : Reg) (b : Byte) : (s.writeV x b).stack = s.stack := rfl
@[simp] theorem State.writeV_dt (x : Reg) (b : Byte) : (s.writeV x b).dt = s.dt := rfl
@[simp] theorem State.writeV_st (x : Reg) (b : Byte) : (s.writeV x b).st = s.st := rfl
@[simp] theorem State.writeV_keys (x : Reg) (b : Byte) : (s.writeV x b).keys = s.keys := rfl
@[simp] theorem State.writeV_fb (x : Reg) (b : Byte) : (s.writeV x b).fb = s.fb := rfl
@[simp] theorem State.writeV_run (x : Reg) (b : Byte) : (s.writeV x b).run = s.run := rfl
@[simp] theorem State.writeV_started (x : Reg) (b : Byte) : (s.writeV x b).started = s.started := rfl
@[simp] theorem State.writeV_fault (x : Reg) (b : Byte) : (s.writeV x b).fault = s.fault := rfl
@[simp] theorem State.writeV_faultPc (x : Reg) (b : Byte) : (s.writeV x b).faultPc = s.faultPc := rfl
@[simp] theorem State.writeV_faultOp (x : Reg) (b : Byte) : (s.writeV x b).faultOp = s.faultOp := rfl
@[simp] theorem State.writeV_draws (x : Reg) (b : Byte) : (s.writeV x b).draws = s.draws := rfl
@[simp] theorem State.writeV_schedule (x : Reg) (b : Byte) : (s.writeV x b).schedule = s.schedule := rfl

/-! `State.setI` -/

@[simp] theorem State.setI_mem (w : Word) : (s.setI w).mem = s.mem := rfl
@[simp] theorem State.setI_v (w : Word) : (s.setI w).v = s.v := rfl
@[simp] theorem State.setI_i (w : Word) : (s.setI w).i = w := rfl
@[simp] theorem State.setI_pc (w : Word) : (s.setI w).pc = s.pc := rfl
@[simp] theorem State.setI_sp (w : Word) : (s.setI w).sp = s.sp := rfl
@[simp] theorem State.setI_stack (w : Word) : (s.setI w).stack = s.stack := rfl
@[simp] theorem State.setI_dt (w : Word) : (s.setI w).dt = s.dt := rfl
@[simp] theorem State.setI_st (w : Word) : (s.setI w).st = s.st := rfl
@[simp] theorem State.setI_keys (w : Word) : (s.setI w).keys = s.keys := rfl
@[simp] theorem State.setI_fb (w : Word) : (s.setI w).fb = s.fb := rfl
@[simp] theorem State.setI_run (w : Word) : (s.setI w).run = s.run := rfl
@[simp] theorem State.setI_started (w : Word) : (s.setI w).started = s.started := rfl
@[simp] theorem State.setI_fault (w : Word) : (s.setI w).fault = s.fault := rfl
@[simp] theorem State.setI_faultPc (w : Word) : (s.setI w).faultPc = s.faultPc := rfl
@[simp] theorem State.setI_faultOp (w : Word) : (s.setI w).faultOp = s.faultOp := rfl
@[simp] theorem State.setI_draws (w : Word) : (s.setI w).draws = s.draws := rfl
@[simp] theorem State.setI_schedule (w : Word) : (s.setI w).schedule = s.schedule := rfl

/-! `State.setPc` -/

@[simp] theorem State.setPc_mem (w : Word) : (s.setPc w).mem = s.mem := rfl
@[simp] theorem State.setPc_v (w : Word) : (s.setPc w).v = s.v := rfl
@[simp] theorem State.setPc_i (w : Word) : (s.setPc w).i = s.i := rfl
@[simp] theorem State.setPc_pc (w : Word) : (s.setPc w).pc = w := rfl
@[simp] theorem State.setPc_sp (w : Word) : (s.setPc w).sp = s.sp := rfl
@[simp] theorem State.setPc_stack (w : Word) : (s.setPc w).stack = s.stack := rfl
@[simp] theorem State.setPc_dt (w : Word) : (s.setPc w).dt = s.dt := rfl
@[simp] theorem State.setPc_st (w : Word) : (s.setPc w).st = s.st := rfl
@[simp] theorem State.setPc_keys (w : Word) : (s.setPc w).keys = s.keys := rfl
@[simp] theorem State.setPc_fb (w : Word) : (s.setPc w).fb = s.fb := rfl
@[simp] theorem State.setPc_run (w : Word) : (s.setPc w).run = s.run := rfl
@[simp] theorem State.setPc_started (w : Word) : (s.setPc w).started = s.started := rfl
@[simp] theorem State.setPc_fault (w : Word) : (s.setPc w).fault = s.fault := rfl
@[simp] theorem State.setPc_faultPc (w : Word) : (s.setPc w).faultPc = s.faultPc := rfl
@[simp] theorem State.setPc_faultOp (w : Word) : (s.setPc w).faultOp = s.faultOp := rfl
@[simp] theorem State.setPc_draws (w : Word) : (s.setPc w).draws = s.draws := rfl
@[simp] theorem State.setPc_schedule (w : Word) : (s.setPc w).schedule = s.schedule := rfl

/-! `State.setDt` -/

@[simp] theorem State.setDt_mem (b : Byte) : (s.setDt b).mem = s.mem := rfl
@[simp] theorem State.setDt_v (b : Byte) : (s.setDt b).v = s.v := rfl
@[simp] theorem State.setDt_i (b : Byte) : (s.setDt b).i = s.i := rfl
@[simp] theorem State.setDt_pc (b : Byte) : (s.setDt b).pc = s.pc := rfl
@[simp] theorem State.setDt_sp (b : Byte) : (s.setDt b).sp = s.sp := rfl
@[simp] theorem State.setDt_stack (b : Byte) : (s.setDt b).stack = s.stack := rfl
@[simp] theorem State.setDt_dt (b : Byte) : (s.setDt b).dt = b := rfl
@[simp] theorem State.setDt_st (b : Byte) : (s.setDt b).st = s.st := rfl
@[simp] theorem State.setDt_keys (b : Byte) : (s.setDt b).keys = s.keys := rfl
@[simp] theorem State.setDt_fb (b : Byte) : (s.setDt b).fb = s.fb := rfl
@[simp] theorem State.setDt_run (b : Byte) : (s.setDt b).run = s.run := rfl
@[simp] theorem State.setDt_started (b : Byte) : (s.setDt b).started = s.started := rfl
@[simp] theorem State.setDt_fault (b : Byte) : (s.setDt b).fault = s.fault := rfl
@[simp] theorem State.setDt_faultPc (b : Byte) : (s.setDt b).faultPc = s.faultPc := rfl
@[simp] theorem State.setDt_faultOp (b : Byte) : (s.setDt b).faultOp = s.faultOp := rfl
@[simp] theorem State.setDt_draws (b : Byte) : (s.setDt b).draws = s.draws := rfl
@[simp] theorem State.setDt_schedule (b : Byte) : (s.setDt b).schedule = s.schedule := rfl

/-! `State.setSt` -/

@[simp] theorem State.setSt_mem (b : Byte) : (s.setSt b).mem = s.mem := rfl
@[simp] theorem State.setSt_v (b : Byte) : (s.setSt b).v = s.v := rfl
@[simp] theorem State.setSt_i (b : Byte) : (s.setSt b).i = s.i := rfl
@[simp] theorem State.setSt_pc (b : Byte) : (s.setSt b).pc = s.pc := rfl
@[simp] theorem State.setSt_sp (b : Byte) : (s.setSt b).sp = s.sp := rfl
@[simp] theorem State.setSt_stack (b : Byte) : (s.setSt b).stack = s.stack := rfl
@[simp] theorem State.setSt_dt (b : Byte) : (s.setSt b).dt = s.dt := rfl
@[simp] theorem State.setSt_st (b : Byte) : (s.setSt b).st = b := rfl
@[simp] theorem State.setSt_keys (b : Byte) : (s.setSt b).keys = s.keys := rfl
@[simp] theorem State.setSt_fb (b : Byte) : (s.setSt b).fb = s.fb := rfl
@[simp] theorem State.setSt_run (b : Byte) : (s.setSt b).run = s.run := rfl
@[simp] theorem State.setSt_started (b : Byte) : (s.setSt b).started = s.started := rfl
@[simp] theorem State.setSt_fault (b : Byte) : (s.setSt b).fault = s.fault := rfl
@[simp] theorem State.setSt_faultPc (b : Byte) : (s.setSt b).faultPc = s.faultPc := rfl
@[simp] theorem State.setSt_faultOp (b : Byte) : (s.setSt b).faultOp = s.faultOp := rfl
@[simp] theorem State.setSt_draws (b : Byte) : (s.setSt b).draws = s.draws := rfl
@[simp] theorem State.setSt_schedule (b : Byte) : (s.setSt b).schedule = s.schedule := rfl

/-! `State.setFb` -/

@[simp] theorem State.setFb_mem (fb : Framebuffer) : (s.setFb fb).mem = s.mem := rfl
@[simp] theorem State.setFb_v (fb : Framebuffer) : (s.setFb fb).v = s.v := rfl
@[simp] theorem State.setFb_i (fb : Framebuffer) : (s.setFb fb).i = s.i := rfl
@[simp] theorem State.setFb_pc (fb : Framebuffer) : (s.setFb fb).pc = s.pc := rfl
@[simp] theorem State.setFb_sp (fb : Framebuffer) : (s.setFb fb).sp = s.sp := rfl
@[simp] theorem State.setFb_stack (fb : Framebuffer) : (s.setFb fb).stack = s.stack := rfl
@[simp] theorem State.setFb_dt (fb : Framebuffer) : (s.setFb fb).dt = s.dt := rfl
@[simp] theorem State.setFb_st (fb : Framebuffer) : (s.setFb fb).st = s.st := rfl
@[simp] theorem State.setFb_keys (fb : Framebuffer) : (s.setFb fb).keys = s.keys := rfl
@[simp] theorem State.setFb_fb (fb : Framebuffer) : (s.setFb fb).fb = fb := rfl
@[simp] theorem State.setFb_run (fb : Framebuffer) : (s.setFb fb).run = s.run := rfl
@[simp] theorem State.setFb_started (fb : Framebuffer) : (s.setFb fb).started = s.started := rfl
@[simp] theorem State.setFb_fault (fb : Framebuffer) : (s.setFb fb).fault = s.fault := rfl
@[simp] theorem State.setFb_faultPc (fb : Framebuffer) : (s.setFb fb).faultPc = s.faultPc := rfl
@[simp] theorem State.setFb_faultOp (fb : Framebuffer) : (s.setFb fb).faultOp = s.faultOp := rfl
@[simp] theorem State.setFb_draws (fb : Framebuffer) : (s.setFb fb).draws = s.draws := rfl
@[simp] theorem State.setFb_schedule (fb : Framebuffer) : (s.setFb fb).schedule = s.schedule := rfl

/-! `State.storeBytes` -/

@[simp] theorem State.storeBytes_mem (base : Nat) (bytes : List Byte) : (s.storeBytes base bytes).mem = Memory.writeBytes s.mem base bytes := rfl
@[simp] theorem State.storeBytes_v (base : Nat) (bytes : List Byte) : (s.storeBytes base bytes).v = s.v := rfl
@[simp] theorem State.storeBytes_i (base : Nat) (bytes : List Byte) : (s.storeBytes base bytes).i = s.i := rfl
@[simp] theorem State.storeBytes_pc (base : Nat) (bytes : List Byte) : (s.storeBytes base bytes).pc = s.pc := rfl
@[simp] theorem State.storeBytes_sp (base : Nat) (bytes : List Byte) : (s.storeBytes base bytes).sp = s.sp := rfl
@[simp] theorem State.storeBytes_stack (base : Nat) (bytes : List Byte) : (s.storeBytes base bytes).stack = s.stack := rfl
@[simp] theorem State.storeBytes_dt (base : Nat) (bytes : List Byte) : (s.storeBytes base bytes).dt = s.dt := rfl
@[simp] theorem State.storeBytes_st (base : Nat) (bytes : List Byte) : (s.storeBytes base bytes).st = s.st := rfl
@[simp] theorem State.storeBytes_keys (base : Nat) (bytes : List Byte) : (s.storeBytes base bytes).keys = s.keys := rfl
@[simp] theorem State.storeBytes_fb (base : Nat) (bytes : List Byte) : (s.storeBytes base bytes).fb = s.fb := rfl
@[simp] theorem State.storeBytes_run (base : Nat) (bytes : List Byte) : (s.storeBytes base bytes).run = s.run := rfl
@[simp] theorem State.storeBytes_started (base : Nat) (bytes : List Byte) : (s.storeBytes base bytes).started = s.started := rfl
@[simp] theorem State.storeBytes_fault (base : Nat) (bytes : List Byte) : (s.storeBytes base bytes).fault = s.fault := rfl
@[simp] theorem State.storeBytes_faultPc (base : Nat) (bytes : List Byte) : (s.storeBytes base bytes).faultPc = s.faultPc := rfl
@[simp] theorem State.storeBytes_faultOp (base : Nat) (bytes : List Byte) : (s.storeBytes base bytes).faultOp = s.faultOp := rfl
@[simp] theorem State.storeBytes_draws (base : Nat) (bytes : List Byte) : (s.storeBytes base bytes).draws = s.draws := rfl
@[simp] theorem State.storeBytes_schedule (base : Nat) (bytes : List Byte) : (s.storeBytes base bytes).schedule = s.schedule := rfl

/-! `State.nextDraw` -/

@[simp] theorem State.nextDraw_mem : (s.nextDraw).mem = s.mem := rfl
@[simp] theorem State.nextDraw_v : (s.nextDraw).v = s.v := rfl
@[simp] theorem State.nextDraw_i : (s.nextDraw).i = s.i := rfl
@[simp] theorem State.nextDraw_pc : (s.nextDraw).pc = s.pc := rfl
@[simp] theorem State.nextDraw_sp : (s.nextDraw).sp = s.sp := rfl
@[simp] theorem State.nextDraw_stack : (s.nextDraw).stack = s.stack := rfl
@[simp] theorem State.nextDraw_dt : (s.nextDraw).dt = s.dt := rfl
@[simp] theorem State.nextDraw_st : (s.nextDraw).st = s.st := rfl
@[simp] theorem State.nextDraw_keys : (s.nextDraw).keys = s.keys := rfl
@[simp] theorem State.nextDraw_fb : (s.nextDraw).fb = s.fb := rfl
@[simp] theorem State.nextDraw_run : (s.nextDraw).run = s.run := rfl
@[simp] theorem State.nextDraw_started : (s.nextDraw).started = s.started := rfl
@[simp] theorem State.nextDraw_fault : (s.nextDraw).fault = s.fault := rfl
@[simp] theorem State.nextDraw_faultPc : (s.nextDraw).faultPc = s.faultPc := rfl
@[simp] theorem State.nextDraw_faultOp : (s.nextDraw).faultOp = s.faultOp := rfl
@[simp] theorem State.nextDraw_draws : (s.nextDraw).draws = s.draws + 1 := rfl
@[simp] theorem State.nextDraw_schedule : (s.nextDraw).schedule = s.schedule := rfl

/-! `State.advance` -/

@[simp] theorem State.advance_mem : (s.advance).mem = s.mem := rfl
@[simp] theorem State.advance_v : (s.advance).v = s.v := rfl
@[simp] theorem State.advance_i : (s.advance).i = s.i := rfl
@[simp] theorem State.advance_pc : (s.advance).pc = s.pc + 2 := rfl
@[simp] theorem State.advance_sp : (s.advance).sp = s.sp := rfl
@[simp] theorem State.advance_stack : (s.advance).stack = s.stack := rfl
@[simp] theorem State.advance_dt : (s.advance).dt = s.dt := rfl
@[simp] theorem State.advance_st : (s.advance).st = s.st := rfl
@[simp] theorem State.advance_keys : (s.advance).keys = s.keys := rfl
@[simp] theorem State.advance_fb : (s.advance).fb = s.fb := rfl
@[simp] theorem State.advance_run : (s.advance).run = s.run := rfl
@[simp] theorem State.advance_started : (s.advance).started = s.started := rfl
@[simp] theorem State.advance_fault : (s.advance).fault = s.fault := rfl
@[simp] theorem State.advance_faultPc : (s.advance).faultPc = s.faultPc := rfl
@[simp] theorem State.advance_faultOp : (s.advance).faultOp = s.faultOp := rfl
@[simp] theorem State.advance_draws : (s.advance).draws = s.draws := rfl
@[simp] theorem State.advance_schedule : (s.advance).schedule = s.schedule := rfl

/-! `State.takeFault` -/

@[simp] theorem State.takeFault_mem (cause : FaultCode) (op : Word) : (s.takeFault cause op).mem = s.mem := rfl
@[simp] theorem State.takeFault_v (cause : FaultCode) (op : Word) : (s.takeFault cause op).v = s.v := rfl
@[simp] theorem State.takeFault_i (cause : FaultCode) (op : Word) : (s.takeFault cause op).i = s.i := rfl
@[simp] theorem State.takeFault_pc (cause : FaultCode) (op : Word) : (s.takeFault cause op).pc = s.pc := rfl
@[simp] theorem State.takeFault_sp (cause : FaultCode) (op : Word) : (s.takeFault cause op).sp = s.sp := rfl
@[simp] theorem State.takeFault_stack (cause : FaultCode) (op : Word) : (s.takeFault cause op).stack = s.stack := rfl
@[simp] theorem State.takeFault_dt (cause : FaultCode) (op : Word) : (s.takeFault cause op).dt = s.dt := rfl
@[simp] theorem State.takeFault_st (cause : FaultCode) (op : Word) : (s.takeFault cause op).st = s.st := rfl
@[simp] theorem State.takeFault_keys (cause : FaultCode) (op : Word) : (s.takeFault cause op).keys = s.keys := rfl
@[simp] theorem State.takeFault_fb (cause : FaultCode) (op : Word) : (s.takeFault cause op).fb = s.fb := rfl
@[simp] theorem State.takeFault_run (cause : FaultCode) (op : Word) : (s.takeFault cause op).run = s.run := rfl
@[simp] theorem State.takeFault_started (cause : FaultCode) (op : Word) : (s.takeFault cause op).started = s.started := rfl
@[simp] theorem State.takeFault_fault (cause : FaultCode) (op : Word) : (s.takeFault cause op).fault = cause.toBits := rfl
@[simp] theorem State.takeFault_faultPc (cause : FaultCode) (op : Word) : (s.takeFault cause op).faultPc = s.pc := rfl
@[simp] theorem State.takeFault_faultOp (cause : FaultCode) (op : Word) : (s.takeFault cause op).faultOp = op := rfl
@[simp] theorem State.takeFault_draws (cause : FaultCode) (op : Word) : (s.takeFault cause op).draws = s.draws := rfl
@[simp] theorem State.takeFault_schedule (cause : FaultCode) (op : Word) : (s.takeFault cause op).schedule = s.schedule := rfl

/-! `State.dropEvent` -/

@[simp] theorem State.dropEvent_mem : (s.dropEvent).mem = s.mem := rfl
@[simp] theorem State.dropEvent_v : (s.dropEvent).v = s.v := rfl
@[simp] theorem State.dropEvent_i : (s.dropEvent).i = s.i := rfl
@[simp] theorem State.dropEvent_pc : (s.dropEvent).pc = s.pc := rfl
@[simp] theorem State.dropEvent_sp : (s.dropEvent).sp = s.sp := rfl
@[simp] theorem State.dropEvent_stack : (s.dropEvent).stack = s.stack := rfl
@[simp] theorem State.dropEvent_dt : (s.dropEvent).dt = s.dt := rfl
@[simp] theorem State.dropEvent_st : (s.dropEvent).st = s.st := rfl
@[simp] theorem State.dropEvent_keys : (s.dropEvent).keys = s.keys := rfl
@[simp] theorem State.dropEvent_fb : (s.dropEvent).fb = s.fb := rfl
@[simp] theorem State.dropEvent_run : (s.dropEvent).run = s.run := rfl
@[simp] theorem State.dropEvent_started : (s.dropEvent).started = s.started := rfl
@[simp] theorem State.dropEvent_fault : (s.dropEvent).fault = s.fault := rfl
@[simp] theorem State.dropEvent_faultPc : (s.dropEvent).faultPc = s.faultPc := rfl
@[simp] theorem State.dropEvent_faultOp : (s.dropEvent).faultOp = s.faultOp := rfl
@[simp] theorem State.dropEvent_draws : (s.dropEvent).draws = s.draws := rfl
@[simp] theorem State.dropEvent_schedule : (s.dropEvent).schedule = s.schedule.tail := rfl

/-! `State.skipIf` -/

@[simp] theorem State.skipIf_pc (taken : Bool) : (s.skipIf taken).pc = if taken then s.pc + 2 else s.pc := by
  cases taken <;> rfl
@[simp] theorem State.skipIf_mem (taken : Bool) : (s.skipIf taken).mem = s.mem := by cases taken <;> rfl
@[simp] theorem State.skipIf_v (taken : Bool) : (s.skipIf taken).v = s.v := by cases taken <;> rfl
@[simp] theorem State.skipIf_i (taken : Bool) : (s.skipIf taken).i = s.i := by cases taken <;> rfl
@[simp] theorem State.skipIf_sp (taken : Bool) : (s.skipIf taken).sp = s.sp := by cases taken <;> rfl
@[simp] theorem State.skipIf_stack (taken : Bool) : (s.skipIf taken).stack = s.stack := by cases taken <;> rfl
@[simp] theorem State.skipIf_dt (taken : Bool) : (s.skipIf taken).dt = s.dt := by cases taken <;> rfl
@[simp] theorem State.skipIf_st (taken : Bool) : (s.skipIf taken).st = s.st := by cases taken <;> rfl
@[simp] theorem State.skipIf_keys (taken : Bool) : (s.skipIf taken).keys = s.keys := by cases taken <;> rfl
@[simp] theorem State.skipIf_fb (taken : Bool) : (s.skipIf taken).fb = s.fb := by cases taken <;> rfl
@[simp] theorem State.skipIf_run (taken : Bool) : (s.skipIf taken).run = s.run := by cases taken <;> rfl
@[simp] theorem State.skipIf_started (taken : Bool) : (s.skipIf taken).started = s.started := by cases taken <;> rfl
@[simp] theorem State.skipIf_fault (taken : Bool) : (s.skipIf taken).fault = s.fault := by cases taken <;> rfl
@[simp] theorem State.skipIf_faultPc (taken : Bool) : (s.skipIf taken).faultPc = s.faultPc := by cases taken <;> rfl
@[simp] theorem State.skipIf_faultOp (taken : Bool) : (s.skipIf taken).faultOp = s.faultOp := by cases taken <;> rfl
@[simp] theorem State.skipIf_draws (taken : Bool) : (s.skipIf taken).draws = s.draws := by cases taken <;> rfl
@[simp] theorem State.skipIf_schedule (taken : Bool) : (s.skipIf taken).schedule = s.schedule := by cases taken <;> rfl

/-! `State.writeResultAndFlag` -/

@[simp] theorem State.writeResultAndFlag_mem (x : Reg) (b : Byte) (flag : Bool) : (s.writeResultAndFlag x b flag).mem = s.mem := rfl
@[simp] theorem State.writeResultAndFlag_i (x : Reg) (b : Byte) (flag : Bool) : (s.writeResultAndFlag x b flag).i = s.i := rfl
@[simp] theorem State.writeResultAndFlag_pc (x : Reg) (b : Byte) (flag : Bool) : (s.writeResultAndFlag x b flag).pc = s.pc := rfl
@[simp] theorem State.writeResultAndFlag_sp (x : Reg) (b : Byte) (flag : Bool) : (s.writeResultAndFlag x b flag).sp = s.sp := rfl
@[simp] theorem State.writeResultAndFlag_stack (x : Reg) (b : Byte) (flag : Bool) : (s.writeResultAndFlag x b flag).stack = s.stack := rfl
@[simp] theorem State.writeResultAndFlag_dt (x : Reg) (b : Byte) (flag : Bool) : (s.writeResultAndFlag x b flag).dt = s.dt := rfl
@[simp] theorem State.writeResultAndFlag_st (x : Reg) (b : Byte) (flag : Bool) : (s.writeResultAndFlag x b flag).st = s.st := rfl
@[simp] theorem State.writeResultAndFlag_keys (x : Reg) (b : Byte) (flag : Bool) : (s.writeResultAndFlag x b flag).keys = s.keys := rfl
@[simp] theorem State.writeResultAndFlag_fb (x : Reg) (b : Byte) (flag : Bool) : (s.writeResultAndFlag x b flag).fb = s.fb := rfl
@[simp] theorem State.writeResultAndFlag_run (x : Reg) (b : Byte) (flag : Bool) : (s.writeResultAndFlag x b flag).run = s.run := rfl
@[simp] theorem State.writeResultAndFlag_started (x : Reg) (b : Byte) (flag : Bool) : (s.writeResultAndFlag x b flag).started = s.started := rfl
@[simp] theorem State.writeResultAndFlag_fault (x : Reg) (b : Byte) (flag : Bool) : (s.writeResultAndFlag x b flag).fault = s.fault := rfl
@[simp] theorem State.writeResultAndFlag_faultPc (x : Reg) (b : Byte) (flag : Bool) : (s.writeResultAndFlag x b flag).faultPc = s.faultPc := rfl
@[simp] theorem State.writeResultAndFlag_faultOp (x : Reg) (b : Byte) (flag : Bool) : (s.writeResultAndFlag x b flag).faultOp = s.faultOp := rfl
@[simp] theorem State.writeResultAndFlag_draws (x : Reg) (b : Byte) (flag : Bool) : (s.writeResultAndFlag x b flag).draws = s.draws := rfl
@[simp] theorem State.writeResultAndFlag_schedule (x : Reg) (b : Byte) (flag : Bool) : (s.writeResultAndFlag x b flag).schedule = s.schedule := rfl

/-! `State.loadRegs` -/

@[simp] theorem State.loadRegs_mem (base k : Nat) : (s.loadRegs base k).mem = s.mem := by
  induction k with
  | zero => rfl
  | succ j ih => exact ih
@[simp] theorem State.loadRegs_i (base k : Nat) : (s.loadRegs base k).i = s.i := by
  induction k with
  | zero => rfl
  | succ j ih => exact ih
@[simp] theorem State.loadRegs_pc (base k : Nat) : (s.loadRegs base k).pc = s.pc := by
  induction k with
  | zero => rfl
  | succ j ih => exact ih
@[simp] theorem State.loadRegs_sp (base k : Nat) : (s.loadRegs base k).sp = s.sp := by
  induction k with
  | zero => rfl
  | succ j ih => exact ih
@[simp] theorem State.loadRegs_stack (base k : Nat) : (s.loadRegs base k).stack = s.stack := by
  induction k with
  | zero => rfl
  | succ j ih => exact ih
@[simp] theorem State.loadRegs_dt (base k : Nat) : (s.loadRegs base k).dt = s.dt := by
  induction k with
  | zero => rfl
  | succ j ih => exact ih
@[simp] theorem State.loadRegs_st (base k : Nat) : (s.loadRegs base k).st = s.st := by
  induction k with
  | zero => rfl
  | succ j ih => exact ih
@[simp] theorem State.loadRegs_keys (base k : Nat) : (s.loadRegs base k).keys = s.keys := by
  induction k with
  | zero => rfl
  | succ j ih => exact ih
@[simp] theorem State.loadRegs_fb (base k : Nat) : (s.loadRegs base k).fb = s.fb := by
  induction k with
  | zero => rfl
  | succ j ih => exact ih
@[simp] theorem State.loadRegs_run (base k : Nat) : (s.loadRegs base k).run = s.run := by
  induction k with
  | zero => rfl
  | succ j ih => exact ih
@[simp] theorem State.loadRegs_started (base k : Nat) : (s.loadRegs base k).started = s.started := by
  induction k with
  | zero => rfl
  | succ j ih => exact ih
@[simp] theorem State.loadRegs_fault (base k : Nat) : (s.loadRegs base k).fault = s.fault := by
  induction k with
  | zero => rfl
  | succ j ih => exact ih
@[simp] theorem State.loadRegs_faultPc (base k : Nat) : (s.loadRegs base k).faultPc = s.faultPc := by
  induction k with
  | zero => rfl
  | succ j ih => exact ih
@[simp] theorem State.loadRegs_faultOp (base k : Nat) : (s.loadRegs base k).faultOp = s.faultOp := by
  induction k with
  | zero => rfl
  | succ j ih => exact ih
@[simp] theorem State.loadRegs_draws (base k : Nat) : (s.loadRegs base k).draws = s.draws := by
  induction k with
  | zero => rfl
  | succ j ih => exact ih
@[simp] theorem State.loadRegs_schedule (base k : Nat) : (s.loadRegs base k).schedule = s.schedule := by
  induction k with
  | zero => rfl
  | succ j ih => exact ih

/-! Reading a register, and a byte of memory, after each update. -/

@[simp] theorem State.readV_writeV (x y : Reg) (b : Byte) : (s.writeV x b).readV y = if x = y then b else s.readV y := by
  simp only [State.readV, State.writeV, Vector.getElem_set, Fin.ext_iff]

@[simp] theorem State.readV_writeResultAndFlag (x y : Reg) (b : Byte) (flag : Bool) :
    (s.writeResultAndFlag x b flag).readV y = if y = flagReg then flagByte flag else if x = y then b else s.readV y := by
  simp only [State.writeResultAndFlag, State.readV_writeV, eq_comm (a := flagReg)]
@[simp] theorem State.writeV_loadByte (x : Reg) (b : Byte) (a : Nat) : (s.writeV x b).loadByte a = s.loadByte a := rfl
@[simp] theorem State.setI_readV (w : Word) (r : Reg) : (s.setI w).readV r = s.readV r := rfl
@[simp] theorem State.setI_loadByte (w : Word) (a : Nat) : (s.setI w).loadByte a = s.loadByte a := rfl
@[simp] theorem State.setPc_readV (w : Word) (r : Reg) : (s.setPc w).readV r = s.readV r := rfl
@[simp] theorem State.setPc_loadByte (w : Word) (a : Nat) : (s.setPc w).loadByte a = s.loadByte a := rfl
@[simp] theorem State.setDt_readV (b : Byte) (r : Reg) : (s.setDt b).readV r = s.readV r := rfl
@[simp] theorem State.setDt_loadByte (b : Byte) (a : Nat) : (s.setDt b).loadByte a = s.loadByte a := rfl
@[simp] theorem State.setSt_readV (b : Byte) (r : Reg) : (s.setSt b).readV r = s.readV r := rfl
@[simp] theorem State.setSt_loadByte (b : Byte) (a : Nat) : (s.setSt b).loadByte a = s.loadByte a := rfl
@[simp] theorem State.setFb_readV (fb : Framebuffer) (r : Reg) : (s.setFb fb).readV r = s.readV r := rfl
@[simp] theorem State.setFb_loadByte (fb : Framebuffer) (a : Nat) : (s.setFb fb).loadByte a = s.loadByte a := rfl
@[simp] theorem State.storeBytes_readV (base : Nat) (bytes : List Byte) (r : Reg) : (s.storeBytes base bytes).readV r = s.readV r := rfl
@[simp] theorem State.nextDraw_readV (r : Reg) : (s.nextDraw).readV r = s.readV r := rfl
@[simp] theorem State.nextDraw_loadByte (a : Nat) : (s.nextDraw).loadByte a = s.loadByte a := rfl
@[simp] theorem State.advance_readV (r : Reg) : (s.advance).readV r = s.readV r := rfl
@[simp] theorem State.advance_loadByte (a : Nat) : (s.advance).loadByte a = s.loadByte a := rfl
@[simp] theorem State.takeFault_readV (cause : FaultCode) (op : Word) (r : Reg) : (s.takeFault cause op).readV r = s.readV r := rfl
@[simp] theorem State.takeFault_loadByte (cause : FaultCode) (op : Word) (a : Nat) : (s.takeFault cause op).loadByte a = s.loadByte a := rfl
@[simp] theorem State.dropEvent_readV (r : Reg) : (s.dropEvent).readV r = s.readV r := rfl
@[simp] theorem State.dropEvent_loadByte (a : Nat) : (s.dropEvent).loadByte a = s.loadByte a := rfl
@[simp] theorem State.skipIf_readV (taken : Bool) (r : Reg) : (s.skipIf taken).readV r = s.readV r := by cases taken <;> rfl
@[simp] theorem State.skipIf_loadByte (taken : Bool) (a : Nat) : (s.skipIf taken).loadByte a = s.loadByte a := by
  cases taken <;> rfl
@[simp] theorem State.writeResultAndFlag_loadByte (x : Reg) (b : Byte) (flag : Bool) (a : Nat) :
    (s.writeResultAndFlag x b flag).loadByte a = s.loadByte a := rfl
@[simp] theorem State.loadRegs_loadByte (base k a : Nat) : (s.loadRegs base k).loadByte a = s.loadByte a := by
  simp only [State.loadByte, State.loadRegs_mem]

/-- Two states with the same fields are one state; registers compared one by one. -/
theorem State.readV_ext {s t : State} (h : ∀ r, t.readV r = s.readV r) : t.v = s.v :=
  Vector.ext fun k hk => h ⟨k, hk⟩

end Sys2Proof.Machine
end

