-- ==== Sys2Proof/Laws/Ops.lean ====
section
/-! SUPPORT. What each shared operation on the state can do, said once: the flags as numbers, the operand forms as numbers, the
frame of an instruction, the bulk transfers, the call stack, the key read and the fetch. -/

namespace Sys2Proof.Machine

/-! The flags (R12, R107 to R110). -/

theorem flagByte_toNat (flag : Bool) : (flagByte flag).toNat = if flag then 1 else 0 := by cases flag <;> rfl

theorem carryOut_iff (p q : Byte) : carryOut p q = true ↔ 255 < p.toNat + q.toNat := by
  have := p.isLt
  have := q.isLt
  rw [carryOut, BitVec.getLsbD_eq_getElem (by decide), BitVec.getElem_eq_testBit_toNat]
  simp only [BitVec.toNat_add, BitVec.toNat_setWidth, Nat.testBit_eq_decide_div_mod_eq, decide_eq_true_eq]
  omega

theorem borrowOut_iff (p q : Byte) : borrowOut p q = true ↔ p.toNat < q.toNat := by
  simp [borrowOut, BitVec.ult]

theorem shiftedOutRight_iff (q : Byte) : shiftedOutRight q = true ↔ q.toNat % 2 = 1 := by
  rw [shiftedOutRight, BitVec.getLsbD_eq_getElem (by decide), BitVec.getElem_eq_testBit_toNat]
  simp [Nat.testBit_eq_decide_div_mod_eq]

theorem shiftedOutLeft_iff (q : Byte) : shiftedOutLeft q = true ↔ 128 ≤ q.toNat := by
  have := q.isLt
  rw [shiftedOutLeft, BitVec.getLsbD_eq_getElem (by decide), BitVec.getElem_eq_testBit_toNat]
  simp only [Nat.testBit_eq_decide_div_mod_eq, decide_eq_true_eq]
  omega

/-! The operand forms (R41, R63, R121, R122, R140). -/

@[simp] theorem zextAddr_toNat (nnn : BitVec 12) : (zextAddr nnn).toNat = nnn.toNat := by
  have := nnn.isLt
  simp only [zextAddr, BitVec.toNat_setWidth]; omega

theorem glyphAddress_toNat (b : Byte) : (glyphAddress b).toNat = b.toNat * 5 := by
  have := b.isLt
  simp only [glyphAddress, Config.glyphBytes, BitVec.toNat_ofNat]; omega

theorem bcdHundreds_toNat (b : Byte) : (bcdHundreds b).toNat = b.toNat / 100 := by
  have := b.isLt
  simp only [bcdHundreds, BitVec.toNat_ofNat]; omega

theorem bcdTens_toNat (b : Byte) : (bcdTens b).toNat = b.toNat / 10 % 10 := by
  simp only [bcdTens, BitVec.toNat_ofNat]; omega

theorem bcdOnes_toNat (b : Byte) : (bcdOnes b).toNat = b.toNat % 10 := by
  simp only [bcdOnes, BitVec.toNat_ofNat]; omega

theorem keyIndex_of_lt {b : Byte} (h : b.toNat < 16) : keyIndex b = some ⟨b.toNat, h⟩ := dif_pos h

theorem keyIndex_of_ge {b : Byte} (h : ¬ b.toNat < 16) : keyIndex b = none := dif_neg h

@[simp] theorem effectiveAddress_zero (i : Word) : effectiveAddress i 0 = i.toNat := rfl

/-! The advance (R82). -/

theorem State.advance_pc_toNat (s : State) : s.advance.pc.toNat = (s.pc.toNat + 2) % 65536 := by
  simp [BitVec.toNat_add]

/-! The frame of an instruction (R84, R85). -/

theorem commit_ok {op : Word} {body : State → Except FaultCode State} {s t : State} (h : body s.advance = .ok t) :
    commit op body s = .next t := by simp [commit, h]

theorem commit_error {op : Word} {body : State → Except FaultCode State} {s : State} {cause : FaultCode}
    (h : body s.advance = .error cause) : commit op body s = .next (s.takeFault cause op) := by simp [commit, h]

/-- All that `commit` can answer: the body's state, or the fault with nothing else changed. -/
theorem commit_cases {op : Word} {body : State → Except FaultCode State} {s t : State} (h : commit op body s = .next t) :
    body s.advance = .ok t ∨ ∃ cause, body s.advance = .error cause ∧ t = s.takeFault cause op := by
  unfold commit at h
  split at h
  · next hb => cases h; exact .inl hb
  · next cause hb => cases h; exact .inr ⟨cause, hb, rfl⟩

theorem complete_eq (body : State → State) (s : State) : complete body s = .next (body s.advance) := rfl

theorem complete_next {body : State → State} {s t : State} (h : complete body s = .next t) : t = body s.advance := by
  cases h; rfl

theorem FaultCode.toBits_ne_zero (cause : FaultCode) : cause.toBits ≠ 0 := by cases cause <;> decide

theorem FaultCode.toBits_ne_seven (cause : FaultCode) : cause.toBits ≠ 7 := by cases cause <;> decide

/-! The bulk transfers (R123, R124). -/

@[simp] theorem State.firstRegs_length (s : State) (x : Reg) : (s.firstRegs x).length = x.val + 1 := by
  simp only [State.firstRegs, List.length_take, Vector.length_toList]; omega

theorem State.firstRegs_getElem? (s : State) (x k : Reg) (h : k ≤ x) : (s.firstRegs x)[k.val]? = some (s.readV k) := by
  have hk := k.isLt
  have : k.val ≤ x.val := h
  simp only [State.firstRegs, State.readV]
  rw [List.getElem?_take, if_pos (by omega)]
  simp [hk]

/-- Loading `k` bytes from `base` up: register `r` below `k` gets the byte of `base + r`, the others keep theirs. -/
theorem State.loadRegs_readV (s : State) (base k : Nat) (hk : k ≤ 16) (r : Reg) :
    (s.loadRegs base k).readV r = if r.val < k then s.loadByte (base + r.val) else s.readV r := by
  induction k with
  | zero => simp [State.loadRegs]
  | succ j ih =>
    rw [State.loadRegs, State.readV_writeV, ih (by omega)]
    have hj : (Fin.ofNat 16 j).val = j := Nat.mod_eq_of_lt (by omega)
    by_cases e : Fin.ofNat 16 j = r
    · rw [if_pos e, ← e, hj, if_pos (by omega)]
    · have hne : j ≠ r.val := fun he => e (Fin.ext (by rw [hj, he]))
      rw [if_neg e]
      by_cases hlt : r.val < j
      · rw [if_pos hlt, if_pos (by omega)]
      · rw [if_neg hlt, if_neg (by omega)]

/-- A run of bytes stored in a canonical memory, read back byte by byte. -/
theorem State.loadByte_storeBytes {s : State} (h : Memory.wf s.mem = true) {base : Nat} {bytes : List Byte}
    (hr : base + bytes.length ≤ 4096) (a : Nat) :
    (s.storeBytes base bytes).loadByte a = if base ≤ a then (bytes[a - base]?).getD (s.loadByte a) else s.loadByte a :=
  Memory.read_writeBytes h hr a

/-- A run of bytes leaves every address outside it as it was. -/
theorem State.loadByte_storeBytes_outside {s : State} (h : Memory.wf s.mem = true) {base : Nat} {bytes : List Byte}
    (hr : base + bytes.length ≤ 4096) {a : Nat} (ha : a < base ∨ base + bytes.length ≤ a) :
    (s.storeBytes base bytes).loadByte a = s.loadByte a := by
  rw [State.loadByte_storeBytes h hr]
  split
  · rw [List.getElem?_eq_none (by omega)]; rfl
  · rfl

/-! The call stack (R90, R92). -/

theorem State.pushReturn_of_lt {s : State} (h : s.sp.val < 16) (ret : Word) :
    s.pushReturn ret = .ok { s with stack := s.stack.set s.sp.val ret, sp := ⟨s.sp.val + 1, by omega⟩ } := by
  simp [State.pushReturn, h]

theorem State.pushReturn_full {s : State} (h : s.sp.val = 16) (ret : Word) : s.pushReturn ret = .error .stackOverflow := by
  simp [State.pushReturn, h]

theorem State.popReturn_of_pos {s : State} (h : s.sp.val ≠ 0) :
    s.popReturn = .ok { s with sp := ⟨s.sp.val - 1, by omega⟩, pc := s.stack[s.sp.val - 1] } := by
  simp [State.popReturn, h]

theorem State.popReturn_empty {s : State} (h : s.sp.val = 0) : s.popReturn = .error .stackUnderflow := by
  simp [State.popReturn, h]

/-! The key read (R140). -/

theorem State.readKey_of_lt {s : State} {b : Byte} (h : b.toNat < 16) : s.readKey b = .ok (s.keys[b.toNat]) := by
  simp [State.readKey, keyIndex_of_lt h]

theorem State.readKey_of_ge {s : State} {b : Byte} (h : ¬ b.toNat < 16) : s.readKey b = .error .keyRange := by
  simp [State.readKey, keyIndex_of_ge h]

/-! The fetch (R81). -/

theorem State.fetch_of_le {s : State} (h : s.pc.toNat ≤ 0xFFE) :
    s.fetch = some (wordOfBytes (s.loadByte s.pc.toNat) (s.loadByte (s.pc.toNat + 1))) := if_pos h

theorem State.fetch_of_gt {s : State} (h : ¬ s.pc.toNat ≤ 0xFFE) : s.fetch = none := if_neg h

/-! STEP (R80 to R85). -/

theorem State.stepEnabled_iff {s : State} : s.stepEnabled = true ↔ s.run = true ∧ s.fault = 0 := by
  simp [State.stepEnabled]

theorem stepEvent_disabled {s : State} (h : s.stepEnabled = false) : stepEvent s = .next s := by
  simp [stepEvent, h]

theorem stepEvent_fetched {s : State} {op : Word} (h : s.stepEnabled = true) (hf : s.fetch = some op) :
    stepEvent s = exec (decodeWord op) s := by simp [stepEvent, h, hf]

theorem stepEvent_unfetched {s : State} (h : s.stepEnabled = true) (hf : s.fetch = none) :
    stepEvent s = .next (s.takeFault .fetchRange 0x0000) := by simp [stepEvent, h, hf]

/-- A draw answers a canvas or the fault FB_RANGE, by whether a set bit is outside the grid. -/
theorem drawRows_cases (rowByte : Nat → Byte) (x0 y0 : Byte) (cv : Canvas) (k : Nat) :
    (∃ cv', drawRows rowByte x0 y0 cv k = .ok cv' ∧ ∀ qx qy, Covers rowByte x0 y0 k qx qy → inGrid qx qy = true) ∨
      (drawRows rowByte x0 y0 cv k = .error .fbRange ∧ ∃ qx qy, Covers rowByte x0 y0 k qx qy ∧ inGrid qx qy = false) := by
  by_cases h : ∀ qx qy, Covers rowByte x0 y0 k qx qy → inGrid qx qy = true
  · obtain ⟨cv', hcv, -⟩ := drawRows_spec rowByte x0 y0 cv k h
    exact .inl ⟨cv', hcv, h⟩
  · have hout : ∃ qx qy, Covers rowByte x0 y0 k qx qy ∧ inGrid qx qy = false := by
      by_contra hn
      refine h fun qx qy hc => ?_
      by_contra hg
      exact hn ⟨qx, qy, hc, by simpa using hg⟩
    exact .inr ⟨drawRows_error rowByte x0 y0 cv k hout, hout⟩

end Sys2Proof.Machine
end

