-- ==== Sys2Proof/Laws/Exec.lean ====
section
/-! SUPPORT. What an instruction, STEP and a step can answer, said once: always a next state; the inputs and the latches are
written by nothing but a fault; and the shape of every instruction's answer. -/

namespace Sys2Proof.Machine

/-! The answer of each instruction that cannot fault (R84). -/

theorem exec_cls (ignored : BitVec 4) (s : State) : exec (.cls ignored) s = .next
    (s.advance.setFb Framebuffer.blank) := rfl
theorem exec_jpAddr (nnn : BitVec 12) (s : State) : exec (.jpAddr nnn) s = .next
    (s.advance.setPc (zextAddr nnn)) := rfl
theorem exec_seVxByte (x : Reg) (kk : Byte) (s : State) : exec (.seVxByte x kk) s = .next
    (s.advance.skipIf (s.readV x == kk)) := rfl
theorem exec_sneVxByte (x : Reg) (kk : Byte) (s : State) : exec (.sneVxByte x kk) s = .next
    (s.advance.skipIf (s.readV x != kk)) := rfl
theorem exec_ldVxByte (x : Reg) (kk : Byte) (s : State) : exec (.ldVxByte x kk) s = .next
    (s.advance.writeV x kk) := rfl
theorem exec_addVxByte (x : Reg) (kk : Byte) (s : State) : exec (.addVxByte x kk) s = .next
    (s.advance.writeV x (s.readV x + kk)) := rfl
theorem exec_ldVxVy (x y : Reg) (s : State) : exec (.ldVxVy x y) s = .next
    (s.advance.writeV x (s.readV y)) := rfl
theorem exec_orVxVy (x y : Reg) (s : State) : exec (.orVxVy x y) s = .next
    (s.advance.writeV x (s.readV x ||| s.readV y)) := rfl
theorem exec_andVxVy (x y : Reg) (s : State) : exec (.andVxVy x y) s = .next
    (s.advance.writeV x (s.readV x &&& s.readV y)) := rfl
theorem exec_xorVxVy (x y : Reg) (s : State) : exec (.xorVxVy x y) s = .next
    (s.advance.writeV x (s.readV x ^^^ s.readV y)) := rfl
theorem exec_addVxVy (x y : Reg) (s : State) : exec (.addVxVy x y) s = .next
    (s.advance.writeResultAndFlag x (s.readV x + s.readV y) (carryOut (s.readV x) (s.readV y))) := rfl
theorem exec_subVxVy (x y : Reg) (s : State) : exec (.subVxVy x y) s = .next
    (s.advance.writeResultAndFlag x (s.readV x - s.readV y) (borrowOut (s.readV x) (s.readV y))) := rfl
theorem exec_shrVxVy (x y : Reg) (s : State) : exec (.shrVxVy x y) s = .next
    (s.advance.writeResultAndFlag x (s.readV y >>> 1) (shiftedOutRight (s.readV y))) := rfl
theorem exec_shlVxVy (x y : Reg) (s : State) : exec (.shlVxVy x y) s = .next
    (s.advance.writeResultAndFlag x (s.readV y <<< 1) (shiftedOutLeft (s.readV y))) := rfl
theorem exec_ldIAddr (nnn : BitVec 12) (s : State) : exec (.ldIAddr nnn) s = .next
    (s.advance.setI (zextAddr nnn)) := rfl
theorem exec_rndVxByte (x : Reg) (kk : Byte) (s : State) : exec (.rndVxByte x kk) s = .next
    ((s.advance.writeV x (s.randomByte &&& kk)).nextDraw) := rfl
theorem exec_ldVxDt (x : Reg) (s : State) : exec (.ldVxDt x) s = .next
    (s.advance.writeV x s.dt) := rfl
theorem exec_ldDtVx (x : Reg) (s : State) : exec (.ldDtVx x) s = .next
    (s.advance.setDt (s.readV x)) := rfl
theorem exec_ldStVx (x : Reg) (s : State) : exec (.ldStVx x) s = .next
    (s.advance.setSt (s.readV x)) := rfl
theorem exec_ldFVx (x : Reg) (s : State) : exec (.ldFVx x) s = .next
    (s.advance.setI (glyphAddress (s.readV x))) := rfl
theorem exec_unlisted0 (ignored : BitVec 12) (s : State) : exec (.unlisted0 ignored) s = .next s.advance := rfl
theorem exec_unlisted5 (ignored : BitVec 12) (s : State) : exec (.unlisted5 ignored) s = .next s.advance := rfl
theorem exec_unlisted8 (ignored : BitVec 12) (s : State) : exec (.unlisted8 ignored) s = .next s.advance := rfl
theorem exec_unlisted9 (ignored : BitVec 12) (s : State) : exec (.unlisted9 ignored) s = .next s.advance := rfl
theorem exec_unlistedB (ignored : BitVec 12) (s : State) : exec (.unlistedB ignored) s = .next s.advance := rfl
theorem exec_unlistedE (ignored : BitVec 12) (s : State) : exec (.unlistedE ignored) s = .next s.advance := rfl
theorem exec_unlistedF (ignored : BitVec 12) (s : State) : exec (.unlistedF ignored) s = .next s.advance := rfl

/-! The answer of each instruction that can fault: its effect, or the fault (R84, R85, R162). -/

theorem exec_ret (ignored : BitVec 4) (s : State) : exec (.ret ignored) s = .next
    (if s.sp.val = 0 then s.takeFault .stackUnderflow (encode (.ret ignored))
     else { s with sp := ⟨s.sp.val - 1, by omega⟩, pc := s.stack[s.sp.val - 1] }) := by
  by_cases h : s.sp.val = 0
  · rw [if_pos h]
    exact commit_error (State.popReturn_empty (s := s.advance) h)
  · rw [if_neg h]
    exact commit_ok (State.popReturn_of_pos (s := s.advance) h)

theorem exec_callAddr (nnn : BitVec 12) (s : State) : exec (.callAddr nnn) s = .next
    (if h : s.sp.val < 16 then
       { s with stack := s.stack.set s.sp.val (s.pc + 2), sp := ⟨s.sp.val + 1, by omega⟩, pc := zextAddr nnn }
     else s.takeFault .stackOverflow (encode (.callAddr nnn))) := by
  show commit (encode (.callAddr nnn)) (fun s => (s.pushReturn s.pc).map fun t => t.setPc (zextAddr nnn)) s = _
  by_cases h : s.sp.val < 16
  · rw [dif_pos h]
    exact commit_ok (by rw [State.pushReturn_of_lt (s := s.advance) h]; rfl)
  · rw [dif_neg h]
    exact commit_error (by rw [State.pushReturn_full (s := s.advance) (by simp; omega)]; rfl)

theorem exec_skpVx (x : Reg) (s : State) : exec (.skpVx x) s = .next
    (if h : (s.readV x).toNat < 16 then s.advance.skipIf s.keys[(s.readV x).toNat]
     else s.takeFault .keyRange (encode (.skpVx x))) := by
  show commit (encode (.skpVx x)) (fun s => (s.readKey (s.readV x)).map fun pressed => s.skipIf pressed) s = _
  by_cases h : (s.readV x).toNat < 16
  · rw [dif_pos h]
    exact commit_ok (by rw [State.advance_readV, State.readKey_of_lt (s := s.advance) h]; rfl)
  · rw [dif_neg h]
    exact commit_error (by rw [State.advance_readV, State.readKey_of_ge (s := s.advance) h]; rfl)

theorem exec_sknpVx (x : Reg) (s : State) : exec (.sknpVx x) s = .next
    (if h : (s.readV x).toNat < 16 then s.advance.skipIf (!s.keys[(s.readV x).toNat])
     else s.takeFault .keyRange (encode (.sknpVx x))) := by
  show commit (encode (.sknpVx x)) (fun s => (s.readKey (s.readV x)).map fun pressed => s.skipIf (!pressed)) s = _
  by_cases h : (s.readV x).toNat < 16
  · rw [dif_pos h]
    exact commit_ok (by rw [State.advance_readV, State.readKey_of_lt (s := s.advance) h]; rfl)
  · rw [dif_neg h]
    exact commit_error (by rw [State.advance_readV, State.readKey_of_ge (s := s.advance) h]; rfl)

/-- The frame of the three transfers: the range test, then the effect (R47, R125). -/
theorem commit_range (op : Word) (len : Nat) (f : State → State) (s : State) :
    commit op (fun s => if rangeOk (effectiveAddress s.i 0) len then .ok (f s) else .error .memRange) s = .next
      (if rangeOk s.i.toNat len then f s.advance else s.takeFault .memRange op) := by
  by_cases h : rangeOk s.i.toNat len = true
  · rw [if_pos h]
    exact commit_ok (if_pos h)
  · rw [if_neg h]
    exact commit_error (if_neg h)

theorem exec_ldBVx (x : Reg) (s : State) : exec (.ldBVx x) s = .next
    (if rangeOk s.i.toNat 3 then
       s.advance.storeBytes s.i.toNat [bcdHundreds (s.readV x), bcdTens (s.readV x), bcdOnes (s.readV x)]
     else s.takeFault .memRange (encode (.ldBVx x))) := by
  show execLdBVx x s = _
  exact commit_range _ _ _ s

theorem exec_ldMemVx (x : Reg) (s : State) : exec (.ldMemVx x) s = .next
    (if rangeOk s.i.toNat (x.val + 1) then s.advance.storeBytes s.i.toNat (s.firstRegs x)
     else s.takeFault .memRange (encode (.ldMemVx x))) := by
  show execLdMemVx x s = _
  exact commit_range _ _ _ s

theorem exec_ldVxMem (x : Reg) (s : State) : exec (.ldVxMem x) s = .next
    (if rangeOk s.i.toNat (x.val + 1) then s.advance.loadRegs s.i.toNat (x.val + 1)
     else s.takeFault .memRange (encode (.ldVxMem x))) := by
  show execLdVxMem x s = _
  exact commit_range _ _ _ s

/-- `Dxyn` with its source range in memory and its set bits in the grid: the drawn canvas is written (R132). -/
theorem exec_drwVxVyN_ok {x y : Reg} {n : BitVec 4} {s : State} {cv : Canvas} (hr : rangeOk s.i.toNat n.toNat = true)
    (hd : drawRows (fun r => s.loadByte (s.i.toNat + r)) (s.readV x) (s.readV y) ⟨s.fb, false⟩ n.toNat = .ok cv) :
    exec (.drwVxVyN x y n) s = .next ((s.advance.setFb cv.fb).writeV flagReg (flagByte cv.coll)) := by
  show execDrwVxVyN x y n s = _
  unfold execDrwVxVyN
  refine commit_ok (s := s) (t := (s.advance.setFb cv.fb).writeV flagReg (flagByte cv.coll)) ?_
  refine (if_pos hr).trans ?_
  exact congrArg (Except.map _) hd

/-- `Dxyn` with a set bit outside the grid faults (R132, D8). -/
theorem exec_drwVxVyN_fbRange {x y : Reg} {n : BitVec 4} {s : State} (hr : rangeOk s.i.toNat n.toNat = true)
    (hd : drawRows (fun r => s.loadByte (s.i.toNat + r)) (s.readV x) (s.readV y) ⟨s.fb, false⟩ n.toNat =
      .error .fbRange) :
    exec (.drwVxVyN x y n) s = .next (s.takeFault .fbRange (encode (.drwVxVyN x y n))) := by
  show execDrwVxVyN x y n s = _
  unfold execDrwVxVyN
  refine commit_error (s := s) ?_
  refine (if_pos hr).trans ?_
  exact congrArg (Except.map _) hd

/-- `Dxyn` with its source range outside memory faults before any pixel is looked at (R132, R164). -/
theorem exec_drwVxVyN_memRange {x y : Reg} {n : BitVec 4} {s : State} (hr : rangeOk s.i.toNat n.toNat = false) :
    exec (.drwVxVyN x y n) s = .next (s.takeFault .memRange (encode (.drwVxVyN x y n))) := by
  show execDrwVxVyN x y n s = _
  unfold execDrwVxVyN
  refine commit_error (s := s) ?_
  exact if_neg (by simpa using hr)

/-- All that `Dxyn` can answer. -/
theorem exec_drwVxVyN_cases (x y : Reg) (n : BitVec 4) (s : State) :
    (∃ cv, rangeOk s.i.toNat n.toNat = true ∧
        drawRows (fun r => s.loadByte (s.i.toNat + r)) (s.readV x) (s.readV y) ⟨s.fb, false⟩ n.toNat = .ok cv ∧
        exec (.drwVxVyN x y n) s = .next ((s.advance.setFb cv.fb).writeV flagReg (flagByte cv.coll))) ∨
      (rangeOk s.i.toNat n.toNat = true ∧
        drawRows (fun r => s.loadByte (s.i.toNat + r)) (s.readV x) (s.readV y) ⟨s.fb, false⟩ n.toNat = .error .fbRange ∧
        exec (.drwVxVyN x y n) s = .next (s.takeFault .fbRange (encode (.drwVxVyN x y n)))) ∨
      (rangeOk s.i.toNat n.toNat = false ∧
        exec (.drwVxVyN x y n) s = .next (s.takeFault .memRange (encode (.drwVxVyN x y n)))) := by
  cases hr : rangeOk s.i.toNat n.toNat with
  | false => exact .inr (.inr ⟨rfl, exec_drwVxVyN_memRange hr⟩)
  | true =>
    rcases drawRows_cases (fun r => s.loadByte (s.i.toNat + r)) (s.readV x) (s.readV y) ⟨s.fb, false⟩ n.toNat with
      ⟨cv, hd, -⟩ | ⟨hd, -⟩
    · exact .inl ⟨cv, rfl, hd, exec_drwVxVyN_ok hr hd⟩
    · exact .inr (.inl ⟨rfl, hd, exec_drwVxVyN_fbRange hr hd⟩)

/-! What any instruction can answer. -/

/-- The inputs and the latches, which no instruction writes (R22, R30 to R34). -/
structure KeepsLatches (s t : State) : Prop where
  keys : t.keys = s.keys
  run : t.run = s.run
  started : t.started = s.started
  fault : t.fault = s.fault
  faultPc : t.faultPc = s.faultPc
  faultOp : t.faultOp = s.faultOp
  schedule : t.schedule = s.schedule

/-- The answer of an instruction: it keeps the inputs and the latches, or it takes a fault and changes nothing else (R85). -/
def Answers (i : Instr) (s t : State) : Prop :=
  KeepsLatches s t ∨ ∃ cause, cause ≠ FaultCode.fetchRange ∧ t = s.takeFault cause (encode i)

/-- Every instruction answers a next state in every state (R86), and of that shape. -/
theorem exec_answers (i : Instr) (s : State) : ∃ t, exec i s = .next t ∧ Answers i s t := by
  cases i
  case ret ignored =>
    refine ⟨_, exec_ret ignored s, ?_⟩
    split
    · exact .inr ⟨_, by decide, rfl⟩
    · exact .inl ⟨rfl, rfl, rfl, rfl, rfl, rfl, rfl⟩
  case callAddr nnn =>
    refine ⟨_, exec_callAddr nnn s, ?_⟩
    split
    · exact .inl ⟨rfl, rfl, rfl, rfl, rfl, rfl, rfl⟩
    · exact .inr ⟨_, by decide, rfl⟩
  case skpVx x =>
    refine ⟨_, exec_skpVx x s, ?_⟩
    split
    · exact .inl ⟨by simp, by simp, by simp, by simp, by simp, by simp, by simp⟩
    · exact .inr ⟨_, by decide, rfl⟩
  case sknpVx x =>
    refine ⟨_, exec_sknpVx x s, ?_⟩
    split
    · exact .inl ⟨by simp, by simp, by simp, by simp, by simp, by simp, by simp⟩
    · exact .inr ⟨_, by decide, rfl⟩
  case ldBVx x =>
    refine ⟨_, exec_ldBVx x s, ?_⟩
    split
    · exact .inl ⟨rfl, rfl, rfl, rfl, rfl, rfl, rfl⟩
    · exact .inr ⟨_, by decide, rfl⟩
  case ldMemVx x =>
    refine ⟨_, exec_ldMemVx x s, ?_⟩
    split
    · exact .inl ⟨rfl, rfl, rfl, rfl, rfl, rfl, rfl⟩
    · exact .inr ⟨_, by decide, rfl⟩
  case ldVxMem x =>
    refine ⟨_, exec_ldVxMem x s, ?_⟩
    split
    · exact .inl ⟨by simp, by simp, by simp, by simp, by simp, by simp, by simp⟩
    · exact .inr ⟨_, by decide, rfl⟩
  case drwVxVyN x y n =>
    rcases exec_drwVxVyN_cases x y n s with ⟨cv, -, -, h⟩ | ⟨-, -, h⟩ | ⟨-, h⟩
    · exact ⟨_, h, .inl ⟨rfl, rfl, rfl, rfl, rfl, rfl, rfl⟩⟩
    · exact ⟨_, h, .inr ⟨_, by decide, rfl⟩⟩
    · exact ⟨_, h, .inr ⟨_, by decide, rfl⟩⟩
  all_goals exact ⟨_, rfl, .inl ⟨by simp, by simp, by simp, by simp, by simp, by simp, by simp⟩⟩

/-- The same of an answer already in hand. -/
theorem exec_latches {i : Instr} {s t : State} (h : exec i s = .next t) : Answers i s t := by
  obtain ⟨t', h', ha⟩ := exec_answers i s
  rw [h'] at h; cases h; exact ha

theorem stepEvent_answers (s : State) : ∃ t, stepEvent s = .next t := by
  unfold stepEvent
  split
  · split
    · exact ⟨_, rfl⟩
    · obtain ⟨t, ht, -⟩ := exec_answers _ _; exact ⟨t, ht⟩
  · exact ⟨_, rfl⟩

/-- All that STEP can do: nothing, a fetch fault, or the fetched instruction (R80, R81, R84). -/
theorem stepEvent_cases {s t : State} (h : stepEvent s = .next t) :
    (s.stepEnabled = false ∧ t = s) ∨
      (s.stepEnabled = true ∧ 0xFFE < s.pc.toNat ∧ t = s.takeFault .fetchRange 0x0000) ∨
      (s.stepEnabled = true ∧ s.pc.toNat ≤ 0xFFE ∧
        exec (decodeWord (wordOfBytes (s.loadByte s.pc.toNat) (s.loadByte (s.pc.toNat + 1)))) s = .next t) := by
  cases he : s.stepEnabled with
  | false => rw [stepEvent_disabled he] at h; cases h; exact .inl ⟨rfl, rfl⟩
  | true =>
    by_cases hp : s.pc.toNat ≤ 0xFFE
    · rw [stepEvent_fetched he (State.fetch_of_le hp)] at h; exact .inr (.inr ⟨rfl, hp, h⟩)
    · rw [stepEvent_unfetched he (State.fetch_of_gt hp)] at h; cases h; exact .inr (.inl ⟨rfl, by omega, rfl⟩)

/-- All that a step can do: one event of R180 on the state without it in the schedule. -/
theorem step_cases {s t : State} (h : step s = .next t) :
    (s.nextEvent = .reset ∧ t = resetEvent s.dropEvent) ∨
      (∃ base bytes, s.nextEvent = .load base bytes ∧ t = loadEvent base.val bytes s.dropEvent) ∨
      (s.nextEvent = .start ∧ t = startEvent s.dropEvent) ∨
      (s.nextEvent = .stop ∧ t = stopEvent s.dropEvent) ∨
      (∃ index pressed, s.nextEvent = .setKey index pressed ∧ t = setKeyEvent index pressed s.dropEvent) ∨
      (s.nextEvent = .step ∧ stepEvent s.dropEvent = .next t) ∨
      (s.nextEvent = .tick ∧ t = tickEvent s.dropEvent) := by
  unfold step at h
  cases he : s.nextEvent with
  | reset => rw [he] at h; cases h; exact .inl ⟨rfl, rfl⟩
  | load base bytes => rw [he] at h; cases h; exact .inr (.inl ⟨base, bytes, rfl, rfl⟩)
  | start => rw [he] at h; cases h; exact .inr (.inr (.inl ⟨rfl, rfl⟩))
  | stop => rw [he] at h; cases h; exact .inr (.inr (.inr (.inl ⟨rfl, rfl⟩)))
  | setKey index pressed => rw [he] at h; cases h; exact .inr (.inr (.inr (.inr (.inl ⟨index, pressed, rfl, rfl⟩))))
  | step => rw [he] at h; exact .inr (.inr (.inr (.inr (.inr (.inl ⟨rfl, h⟩)))))
  | tick => rw [he] at h; cases h; exact .inr (.inr (.inr (.inr (.inr (.inr ⟨rfl, rfl⟩)))))

end Sys2Proof.Machine
end

