-- ==== Sys2Proof/Laws/PerInstr.lean ====
section
/-! SUPPORT. Statements about every instruction as syntax, one lemma per constructor. `EncodesInRow`: an instruction's word is
in its row of the opcode map, under that row's mask (R62, R66, R67). -/

namespace Sys2Proof.Laws.EncodesInRow

/-- The word of `i` selects the row of `i` (R66). -/
def Statement (i : Instr) : Prop := encode i &&& rowMask i = rowMatch i

theorem cls (ignored : BitVec 4) : Statement (.cls ignored) := by simp [Statement, encode, rowMask, rowMatch, and_F0FF]; rfl
theorem ret (ignored : BitVec 4) : Statement (.ret ignored) := by simp [Statement, encode, rowMask, rowMatch, and_F0FF]; rfl
theorem jpAddr (nnn : BitVec 12) : Statement (.jpAddr nnn) := by simp [Statement, encode, rowMask, rowMatch, and_F000]; rfl
theorem callAddr (nnn : BitVec 12) : Statement (.callAddr nnn) := by simp [Statement, encode, rowMask, rowMatch, and_F000]; rfl
theorem seVxByte (x : Reg) (kk : Byte) : Statement (.seVxByte x kk) := by simp [Statement, encode, rowMask, rowMatch, and_F000]; rfl
theorem sneVxByte (x : Reg) (kk : Byte) : Statement (.sneVxByte x kk) := by simp [Statement, encode, rowMask, rowMatch, and_F000]; rfl
theorem ldVxByte (x : Reg) (kk : Byte) : Statement (.ldVxByte x kk) := by simp [Statement, encode, rowMask, rowMatch, and_F000]; rfl
theorem addVxByte (x : Reg) (kk : Byte) : Statement (.addVxByte x kk) := by simp [Statement, encode, rowMask, rowMatch, and_F000]; rfl
theorem ldVxVy (x y : Reg) : Statement (.ldVxVy x y) := by simp [Statement, encode, rowMask, rowMatch, and_F00F]; rfl
theorem orVxVy (x y : Reg) : Statement (.orVxVy x y) := by simp [Statement, encode, rowMask, rowMatch, and_F00F]; rfl
theorem andVxVy (x y : Reg) : Statement (.andVxVy x y) := by simp [Statement, encode, rowMask, rowMatch, and_F00F]; rfl
theorem xorVxVy (x y : Reg) : Statement (.xorVxVy x y) := by simp [Statement, encode, rowMask, rowMatch, and_F00F]; rfl
theorem addVxVy (x y : Reg) : Statement (.addVxVy x y) := by simp [Statement, encode, rowMask, rowMatch, and_F00F]; rfl
theorem subVxVy (x y : Reg) : Statement (.subVxVy x y) := by simp [Statement, encode, rowMask, rowMatch, and_F00F]; rfl
theorem shrVxVy (x y : Reg) : Statement (.shrVxVy x y) := by simp [Statement, encode, rowMask, rowMatch, and_F00F]; rfl
theorem shlVxVy (x y : Reg) : Statement (.shlVxVy x y) := by simp [Statement, encode, rowMask, rowMatch, and_F00F]; rfl
theorem ldIAddr (nnn : BitVec 12) : Statement (.ldIAddr nnn) := by simp [Statement, encode, rowMask, rowMatch, and_F000]; rfl
theorem rndVxByte (x : Reg) (kk : Byte) : Statement (.rndVxByte x kk) := by simp [Statement, encode, rowMask, rowMatch, and_F000]; rfl
theorem drwVxVyN (x y : Reg) (n : BitVec 4) : Statement (.drwVxVyN x y n) := by simp [Statement, encode, rowMask, rowMatch, and_F000]; rfl
theorem skpVx (x : Reg) : Statement (.skpVx x) := by simp [Statement, encode, rowMask, rowMatch, and_F0FF]; rfl
theorem sknpVx (x : Reg) : Statement (.sknpVx x) := by simp [Statement, encode, rowMask, rowMatch, and_F0FF]; rfl
theorem ldVxDt (x : Reg) : Statement (.ldVxDt x) := by simp [Statement, encode, rowMask, rowMatch, and_F0FF]; rfl
theorem ldDtVx (x : Reg) : Statement (.ldDtVx x) := by simp [Statement, encode, rowMask, rowMatch, and_F0FF]; rfl
theorem ldStVx (x : Reg) : Statement (.ldStVx x) := by simp [Statement, encode, rowMask, rowMatch, and_F0FF]; rfl
theorem ldFVx (x : Reg) : Statement (.ldFVx x) := by simp [Statement, encode, rowMask, rowMatch, and_F0FF]; rfl
theorem ldBVx (x : Reg) : Statement (.ldBVx x) := by simp [Statement, encode, rowMask, rowMatch, and_F0FF]; rfl
theorem ldMemVx (x : Reg) : Statement (.ldMemVx x) := by simp [Statement, encode, rowMask, rowMatch, and_F0FF]; rfl
theorem ldVxMem (x : Reg) : Statement (.ldVxMem x) := by simp [Statement, encode, rowMask, rowMatch, and_F0FF]; rfl
theorem unlisted0 (ignored : BitVec 12) : Statement (.unlisted0 ignored) := by simp [Statement, encode, rowMask, rowMatch, and_F000]; rfl
theorem unlisted5 (ignored : BitVec 12) : Statement (.unlisted5 ignored) := by simp [Statement, encode, rowMask, rowMatch, and_F000]; rfl
theorem unlisted8 (ignored : BitVec 12) : Statement (.unlisted8 ignored) := by simp [Statement, encode, rowMask, rowMatch, and_F000]; rfl
theorem unlisted9 (ignored : BitVec 12) : Statement (.unlisted9 ignored) := by simp [Statement, encode, rowMask, rowMatch, and_F000]; rfl
theorem unlistedB (ignored : BitVec 12) : Statement (.unlistedB ignored) := by simp [Statement, encode, rowMask, rowMatch, and_F000]; rfl
theorem unlistedE (ignored : BitVec 12) : Statement (.unlistedE ignored) := by simp [Statement, encode, rowMask, rowMatch, and_F000]; rfl
theorem unlistedF (ignored : BitVec 12) : Statement (.unlistedF ignored) := by simp [Statement, encode, rowMask, rowMatch, and_F000]; rfl

end Sys2Proof.Laws.EncodesInRow
end

