-- ==== Sys2Proof/Tests/Slice0.lean ====
section
/-! SUPPORT. Tests: the checks of WellFormed on ill-formed terms, one word per constructor written from the encodings of R62 and
R66, one-step tests whose results are those of spec/95_test_vectors.md (the vector is named), and a witness for the hypotheses of
every statement of Certificates/Slice0 that has some. -/

namespace Sys2Proof.Tests

open Sys2Proof.Machine Sys2Proof.Claims

/-! WellFormed refuses a term that carries the discriminator of a listed row (R67). -/

theorem test_illformed_unlisted0 : (Instr.unlisted0 0x0E0).wellFormed = false ∧ (Instr.unlisted0 0xAEE).wellFormed = false := by
  decide
theorem test_illformed_unlisted8 : (Instr.unlisted8 0xAB4).wellFormed = false ∧ (Instr.unlisted8 0xABE).wellFormed = false := by
  decide
theorem test_illformed_unlistedE : (Instr.unlistedE 0x09E).wellFormed = false ∧ (Instr.unlistedE 0x5A1).wellFormed = false := by
  decide
theorem test_illformed_unlistedF :
    (Instr.unlistedF 0x007).wellFormed = false ∧ (Instr.unlistedF 0x115).wellFormed = false ∧
      (Instr.unlistedF 0x218).wellFormed = false ∧ (Instr.unlistedF 0x329).wellFormed = false ∧
      (Instr.unlistedF 0x433).wellFormed = false ∧ (Instr.unlistedF 0x555).wellFormed = false ∧
      (Instr.unlistedF 0x665).wellFormed = false := by decide

/-! One word per constructor, bit by bit from the formats (R62) and the map (R66): opclass, bits 11..8, bits 7..4, bits 3..0. -/

theorem test_decode_cls : decodeWord 0b0000_0000_1110_0000#16 = .cls 0x0 := by decide
theorem test_decode_ret : decodeWord 0b0000_1010_1110_1110#16 = .ret 0xA := by decide
theorem test_decode_jpAddr : decodeWord 0b0001_1010_1011_1100#16 = .jpAddr 0xABC := by decide
theorem test_decode_callAddr : decodeWord 0b0010_0100_0101_0110#16 = .callAddr 0x456 := by decide
theorem test_decode_seVxByte : decodeWord 0b0011_1010_0111_1111#16 = .seVxByte 0xA 0x7F := by decide
theorem test_decode_sneVxByte : decodeWord 0b0100_0001_0000_0101#16 = .sneVxByte 0x1 0x05 := by decide
theorem test_decode_ldVxByte : decodeWord 0b0110_1010_1111_1110#16 = .ldVxByte 0xA 0xFE := by decide
theorem test_decode_addVxByte : decodeWord 0b0111_1111_0000_0001#16 = .addVxByte 0xF 0x01 := by decide
theorem test_decode_ldVxVy : decodeWord 0b1000_1010_1011_0000#16 = .ldVxVy 0xA 0xB := by decide
theorem test_decode_orVxVy : decodeWord 0b1000_1010_1011_0001#16 = .orVxVy 0xA 0xB := by decide
theorem test_decode_andVxVy : decodeWord 0b1000_1010_1011_0010#16 = .andVxVy 0xA 0xB := by decide
theorem test_decode_xorVxVy : decodeWord 0b1000_1010_1011_0011#16 = .xorVxVy 0xA 0xB := by decide
theorem test_decode_addVxVy : decodeWord 0b1000_1010_1011_0100#16 = .addVxVy 0xA 0xB := by decide
theorem test_decode_subVxVy : decodeWord 0b1000_1010_1011_0101#16 = .subVxVy 0xA 0xB := by decide
theorem test_decode_shrVxVy : decodeWord 0b1000_1010_1011_0110#16 = .shrVxVy 0xA 0xB := by decide
theorem test_decode_shlVxVy : decodeWord 0b1000_1010_1011_1110#16 = .shlVxVy 0xA 0xB := by decide
theorem test_decode_ldIAddr : decodeWord 0b1010_0011_0000_0000#16 = .ldIAddr 0x300 := by decide
theorem test_decode_rndVxByte : decodeWord 0b1100_0010_0011_1100#16 = .rndVxByte 0x2 0x3C := by decide
theorem test_decode_drwVxVyN : decodeWord 0b1101_0001_0010_0101#16 = .drwVxVyN 0x1 0x2 0x5 := by decide
theorem test_decode_skpVx : decodeWord 0b1110_0101_1001_1110#16 = .skpVx 0x5 := by decide
theorem test_decode_sknpVx : decodeWord 0b1110_0101_1010_0001#16 = .sknpVx 0x5 := by decide
theorem test_decode_ldVxDt : decodeWord 0b1111_0001_0000_0111#16 = .ldVxDt 0x1 := by decide
theorem test_decode_ldDtVx : decodeWord 0b1111_0010_0001_0101#16 = .ldDtVx 0x2 := by decide
theorem test_decode_ldStVx : decodeWord 0b1111_0011_0001_1000#16 = .ldStVx 0x3 := by decide
theorem test_decode_ldFVx : decodeWord 0b1111_0100_0010_1001#16 = .ldFVx 0x4 := by decide
theorem test_decode_ldBVx : decodeWord 0b1111_0101_0011_0011#16 = .ldBVx 0x5 := by decide
theorem test_decode_ldMemVx : decodeWord 0b1111_0010_0101_0101#16 = .ldMemVx 0x2 := by decide
theorem test_decode_ldVxMem : decodeWord 0b1111_1111_0110_0101#16 = .ldVxMem 0xF := by decide
theorem test_decode_unlisted0 : decodeWord 0b0000_0000_1110_0001#16 = .unlisted0 0x0E1 := by decide
theorem test_decode_unlisted5 : decodeWord 0b0101_0001_0010_0000#16 = .unlisted5 0x120 := by decide
theorem test_decode_unlisted8 : decodeWord 0b1000_1010_1011_0111#16 = .unlisted8 0xAB7 := by decide
theorem test_decode_unlisted9 : decodeWord 0b1001_0001_0010_0000#16 = .unlisted9 0x120 := by decide
theorem test_decode_unlistedB : decodeWord 0b1011_0011_0000_0000#16 = .unlistedB 0x300 := by decide
theorem test_decode_unlistedE : decodeWord 0b1110_0000_1001_1111#16 = .unlistedE 0x09F := by decide
theorem test_decode_unlistedF : decodeWord 0b1111_0001_0001_1110#16 = .unlistedF 0x11E := by decide

/-- High byte first, and a lone byte is refused by name (R48, R60). -/
theorem test_decode_bytes :
    decode [0x60, 0x05, 0x61] = .ok (.ldVxByte 0 0x05, [0x61]) ∧ decode [0x60] = .error .truncated := by
  exact ⟨rfl, rfl⟩

/-! One step. -/

/-- The state with `PC` at `pc` and the registers of the list set. -/
def start (pc : Word) (regs : List (Reg × Byte)) : State := regs.foldl (fun s r => s.writeV r.1 r.2) (State.reset.setPc pc)

/-- The step that runs `op` at `s.pc` answers a next state that passes the test. -/
def runs (op : Word) (s : State) (passes : State → Bool) : Bool :=
  match step (s.placeWord op) with
  | .next t => passes t
  | .fault _ => false
  | .refused _ => false

/-- F1. -/
theorem test_jp : runs 0x1ABC (start 0x200 []) (fun t => t.pc == 0xABC) = true := by decide
/-- F3. -/
theorem test_call : runs 0x2456 (start 0x300 []) (fun t => t.stack[0] == 0x302 && t.sp == 1 && t.pc == 0x456) = true := by decide
/-- F5. -/
theorem test_call_full : runs 0x2456 { start 0x300 [] with sp := 16 } (fun t => t.fault == 4 && t.faultPc == 0x300 &&
    t.faultOp == 0x2456 && t.pc == 0x300 && t.sp == 16) = true := by decide
/-- F7. -/
theorem test_ret : runs 0x0AEE { start 0x456 [] with sp := 1, stack := State.reset.stack.set 0 0x302 }
    (fun t => t.sp == 0 && t.pc == 0x302 && t.stack[0] == 0x302) = true := by decide
/-- F8. -/
theorem test_ret_empty : runs 0x00EE (start 0x200 []) (fun t => t.fault == 3 && t.faultPc == 0x200 && t.faultOp == 0x00EE &&
    t.pc == 0x200 && t.sp == 0) = true := by decide
/-- F14, F9. -/
theorem test_se_taken : runs 0x3000 (start 0xFFE []) (fun t => t.pc == 0x1002) = true := by decide
/-- F10. -/
theorem test_se_not_taken : runs 0x3000 (start 0x208 [(0, 2)]) (fun t => t.pc == 0x20A) = true := by decide
/-- F11. -/
theorem test_sne_taken : runs 0x4105 (start 0x200 [(1, 3)]) (fun t => t.pc == 0x204) = true := by decide
/-- F12. -/
theorem test_sne_not_taken : runs 0x4103 (start 0x200 [(1, 3)]) (fun t => t.pc == 0x202) = true := by decide
/-- A1, F16. -/
theorem test_ld_byte : runs 0x6AFF (start 0xFFE []) (fun t => t.readV 0xA == 0xFF && t.pc == 0x1000) = true := by decide
/-- A3. -/
theorem test_add_byte_wraps : runs 0x7101 (start 0x200 [(1, 0xFF), (0xF, 0x55)])
    (fun t => t.readV 1 == 0x00 && t.readV 0xF == 0x55) = true := by decide
/-- A7. -/
theorem test_mov : runs 0x8AB0 (start 0x200 [(0xB, 0x12)]) (fun t => t.readV 0xA == 0x12 && t.readV 0xB == 0x12) = true := by decide
/-- A8. -/
theorem test_or : runs 0x8011 (start 0x200 [(0, 0x0F), (1, 0xF0), (0xF, 1)]) (fun t => t.readV 0 == 0xFF && t.readV 0xF == 1) = true := by
  decide
/-- A9. -/
theorem test_and : runs 0x8012 (start 0x200 [(0, 0x3C), (1, 0x0F)]) (fun t => t.readV 0 == 0x0C) = true := by decide
/-- A10. -/
theorem test_xor : runs 0x8013 (start 0x200 [(0, 0xFF), (1, 0x0F)]) (fun t => t.readV 0 == 0xF0) = true := by decide
/-- A14. -/
theorem test_add_carry : runs 0x8014 (start 0x200 [(0, 0xFF), (1, 0xFF)]) (fun t => t.readV 0 == 0xFE && t.readV 0xF == 1) = true := by
  decide
/-- A17. -/
theorem test_add_flag_wins : runs 0x8F14 (start 0x200 [(0xF, 2), (1, 3)]) (fun t => t.readV 0xF == 0) = true := by decide
/-- A21. -/
theorem test_sub_borrow : runs 0x8015 (start 0x200 [(0, 3), (1, 5)]) (fun t => t.readV 0 == 0xFE && t.readV 0xF == 1) = true := by
  decide
/-- A28. -/
theorem test_sub_old_flag : runs 0x80F5 (start 0x200 [(0xF, 1)]) (fun t => t.readV 0 == 0xFF && t.readV 0xF == 1) = true := by decide
/-- A29. -/
theorem test_shr : runs 0x8016 (start 0x200 [(0, 0xEE), (1, 5)])
    (fun t => t.readV 0 == 2 && t.readV 1 == 5 && t.readV 0xF == 1) = true := by decide
/-- A36. -/
theorem test_shl : runs 0x801E (start 0x200 [(0, 0xEE), (1, 0x81)])
    (fun t => t.readV 0 == 2 && t.readV 1 == 0x81 && t.readV 0xF == 1) = true := by decide
/-- A40. -/
theorem test_shl_flag_wins : runs 0x8F1E (start 0x200 [(1, 0x40)]) (fun t => t.readV 0xF == 0) = true := by decide
/-- A44. -/
theorem test_rnd_zero_mask : ∃ t, exec (.rndVxByte 0 0x00) State.reset = .next t ∧ t.readV 0 = 0x00 ∧ t.draws = 1 :=
  ⟨_, rfl, BitVec.and_zero, rfl⟩
/-- M1. -/
theorem test_ld_index : runs 0xAFFF (start 0x200 []) (fun t => t.i == 0x0FFF) = true := by decide
/-- M6. -/
theorem test_glyph : runs 0xF029 (start 0x200 [(0, 0xFF)]) (fun t => t.i == 0x04FB) = true := by decide
/-- M11. -/
theorem test_bcd : runs 0xF033 ((start 0x200 [(0, 0x7B)]).setI 0xFFD)
    (fun t => t.loadByte 0xFFD == 1 && t.loadByte 0xFFE == 2 && t.loadByte 0xFFF == 3) = true := by decide
/-- M12. -/
theorem test_bcd_range : runs 0xF033 ((start 0x200 [(0, 0x7B)]).setI 0xFFE) (fun t => t.fault == 2 && t.faultPc == 0x200 &&
    t.faultOp == 0xF033 && t.loadByte 0xFFE == 0 && t.loadByte 0xFFF == 0) = true := by decide
/-- R123's example, up to the byte after. -/
theorem test_store_regs : runs 0xF255 ((start 0x200 [(0, 0x11), (1, 0x22), (2, 0x33), (3, 0x44)]).setI 0x400) (fun t =>
    t.loadByte 0x400 == 0x11 && t.loadByte 0x401 == 0x22 && t.loadByte 0x402 == 0x33 && t.loadByte 0x403 == 0 &&
    t.i == 0x400) = true := by decide
/-- M14. -/
theorem test_store_regs_range : runs 0xF155 ((start 0x200 [(0, 0xAB), (1, 0xCD)]).setI 0xFFF)
    (fun t => t.fault == 2 && t.loadByte 0xFFF == 0) = true := by decide
/-- R124's example. -/
theorem test_load_regs : runs 0xF265 (((start 0x200 [(3, 0x44)]).setI 0x300).storeBytes 0x300 [2, 0, 5, 9]) (fun t =>
    t.readV 0 == 2 && t.readV 1 == 0 && t.readV 2 == 5 && t.readV 3 == 0x44 && t.i == 0x300) = true := by decide
/-- M18. -/
theorem test_load_regs_range : runs 0xF165 ((start 0x200 [(0, 7)]).setI 0xFFF) (fun t => t.fault == 2 && t.readV 0 == 7) = true := by
  decide
/-- G2, with `VF` as in G1. -/
theorem test_cls : runs 0x0AE0 { start 0x200 [(0xF, 1)] with fb := Framebuffer.blank.toggle 63 31 }
    (fun t => !t.pixelRead 63 31 && !t.pixelRead 0 0 && t.readV 0xF == 1) = true := by decide
/-- G16. -/
theorem test_draw_collides : runs 0xD011 { ((start 0x200 [(0, 5), (1, 3)]).setI 0x300).storeBytes 0x300 [0xC0] with
      fb := Framebuffer.blank.toggle 5 3 }
    (fun t => !t.pixelRead 5 3 && t.pixelRead 6 3 && !t.pixelRead 7 3 && t.readV 0xF == 1) = true := by decide
/-- G5, and its `PC`. -/
theorem test_draw_off_grid : runs 0xD011 (((start 0x200 [(0, 57)]).setI 0x300).storeBytes 0x300 [0xFF]) (fun t => t.fault == 5 &&
    t.faultOp == 0xD011 && t.pc == 0x200 && !t.pixelRead 57 0 && !t.pixelRead 63 0) = true := by decide
/-- K1. -/
theorem test_skp : runs 0xE09E { start 0x200 [(0, 0x0A)] with keys := State.reset.keys.set 10 true } (fun t => t.pc == 0x204) = true := by
  decide
/-- K5. -/
theorem test_skp_range : runs 0xE09E (start 0x200 [(0, 0x10)]) (fun t => t.fault == 6 && t.faultPc == 0x200 &&
    t.faultOp == 0xE09E) = true := by decide
/-- K4. -/
theorem test_sknp_pressed : runs 0xE0A1 { start 0x200 [(0, 0x0A)] with keys := State.reset.keys.set 10 true }
    (fun t => t.pc == 0x202) = true := by decide
/-- K7. -/
theorem test_sknp : runs 0xE0A1 (start 0x200 [(0, 0x0F)]) (fun t => t.pc == 0x204) = true := by decide
/-- K9. -/
theorem test_read_dt : runs 0xF107 ((start 0x200 []).setDt 0x3C) (fun t => t.readV 1 == 0x3C && t.dt == 0x3C) = true := by decide
/-- K10. -/
theorem test_set_dt : runs 0xF015 (start 0x200 [(0, 0x3C)]) (fun t => t.dt == 0x3C && t.st == 0) = true := by decide
/-- K12. -/
theorem test_set_st : runs 0xF218 (start 0x200 [(2, 2)]) (fun t => t.st == 2 && t.soundActive && t.dt == 0) = true := by decide
/-- The unlisted words of 2.7: nothing but `PC`. -/
theorem test_unlisted : ∀ op ∈ [0x0123#16, 0x5120, 0x8127, 0x9120, 0xB300, 0xE09F, 0xF00A],
    step ((start 0x200 [(1, 7), (2, 7)]).placeWord op) =
      .next { (start 0x200 [(1, 7), (2, 7)]).placeWord op with pc := 0x202 } := by
  simp only [List.forall_mem_cons]; exact ⟨rfl, rfl, rfl, rfl, rfl, rfl, rfl, by simp⟩

/-! The events (K13 to K18, H1 to H11). -/

/-- The answer of an event passes the test. -/
def answers (r : Result) (passes : State → Bool) : Bool :=
  match r with
  | .next t => passes t
  | .fault _ => false
  | .refused _ => false

/-- K15, K17: also when halted. -/
theorem test_tick : answers (step { State.reset with dt := 0xFF, st := 0x05, run := true, fault := 3, schedule := [.tick] })
    (fun t => t.dt == 0xFE && t.st == 0x04 && t.schedule == []) = true := by decide
/-- K16, K18. -/
theorem test_tick_floor_and_stopped : tickEvent { State.reset with run := true } = { State.reset with run := true } ∧
    tickEvent { State.reset with dt := 5 } = { State.reset with dt := 5 } := by exact ⟨rfl, rfl⟩
/-- H2. -/
theorem test_load : answers (applyEvent (.load 0xFFE [0xAA, 0xBB]) State.reset)
    (fun t => t.loadByte 0xFFE == 0xAA && t.loadByte 0xFFF == 0xBB && t.pc == 0x200) = true := by decide
/-- H3, H4. -/
theorem test_load_overflow : loadStatus 0xFFE [0xAA, 0xBB, 0xCC] State.reset = .loadOverflow ∧
    applyEvent (.load 0xFFE [0xAA, 0xBB, 0xCC]) State.reset = .next State.reset ∧
    loadStatus 0x1000 [] State.reset = .ok := by exact ⟨rfl, rfl, rfl⟩
/-- H8. -/
theorem test_load_refused : loadStatus 0x200 [0x12, 0x00] (stopEvent (startEvent State.reset)) = .loadRefused := by decide
/-- H10. -/
theorem test_reset : resetEvent { State.reset with mem := [(0x300, 1)], fault := 3, run := true, pc := 0x444 } = State.reset := rfl
/-- F17, F18: a STEP that is not enabled. -/
theorem test_step_ignored : step { State.reset with run := true, fault := 3 } = .next { State.reset with run := true, fault := 3 } ∧
    step State.reset = .next State.reset := by exact ⟨rfl, rfl⟩
/-- F15. -/
theorem test_fetch_range : step { State.reset with run := true, pc := 0xFFF } =
    .next { State.reset with run := true, pc := 0xFFF, fault := 1, faultPc := 0xFFF, faultOp := 0 } := rfl
/-- The canonical form at reset, and a write of the reset byte takes the entry away. -/
theorem test_memory_canonical : Memory.wf State.reset.mem = true ∧ Memory.write [(0x300, 1)] 0x300 0 = [] := by exact ⟨rfl, rfl⟩
/-- The two definitions the host runs. -/
theorem test_host_words : decodeTableWord 16 0xD125 = some (.drwVxVyN 1 2 5) ∧ decodeTableWord 8 0xE0 = some (.cls 0) ∧
    answers (step (State.reset.withFetchWord 16 0x6005)) (fun t => t.readV 0 == 5 && t.pc == 0x202) = true := by decide

/-! Witnesses: for each statement with hypotheses, each clause of it, values that meet them together, at the boundary of their
range. The statements left out have none. -/

/-- Running, at `pc`, with the registers of the list. -/
def running (pc : Word) (regs : List (Reg × Byte)) : State := { start pc regs with run := true, started := true }

theorem witness_DecodeOfEncodedInstruction : (Instr.unlisted8 0xAB7).wellFormed = true ∧ (Instr.drwVxVyN 15 0 15).wellFormed = true := by
  decide

theorem witness_UnlistedWordsAreNoOps : (Instr.unlisted0 0x000).isUnlisted = true ∧ (Instr.unlistedF 0xFFF).isUnlisted = true := by
  decide

theorem witness_StepRunsDecodedInstruction_event : (∃ s : State, s.schedule = .reset :: [.start] ∧ s.fault = 3) ∧
    ∃ s : State, s.schedule = [] ∧ s.run = true :=
  ⟨⟨{ running 0x200 [] with schedule := [.reset, .start], fault := 3 }, rfl, rfl⟩, ⟨running 0x200 [], rfl, rfl⟩⟩

theorem witness_StepRunsDecodedInstruction :
    (∃ s : State, s.schedule = [] ∧ s.run = true ∧ s.fault = 0 ∧ s.pc.toNat = 0xFFE ∧
      decode [s.loadByte s.pc.toNat, s.loadByte (s.pc.toNat + 1)] = .ok (.unlisted0 0x000, [])) ∧
    ∃ s : State, s.schedule = .step :: [.tick] ∧ s.run = true ∧ s.fault = 0 ∧ s.pc.toNat ≤ 0xFFE ∧
      decode [s.loadByte s.pc.toNat, s.loadByte (s.pc.toNat + 1)] = .ok (.unlisted0 0x000, []) :=
  ⟨⟨running 0xFFE [], rfl, rfl, rfl, rfl, rfl⟩, ⟨{ running 0x200 [] with schedule := [.step, .tick] }, rfl, rfl, rfl, by decide, rfl⟩⟩

theorem witness_StepIgnoredUnlessEnabled : (∃ s : State, ¬ (s.run = true ∧ s.fault = 0) ∧ s.fault = 0) ∧
    ∃ s : State, ¬ (s.run = true ∧ s.fault = 0) ∧ s.run = true :=
  ⟨⟨State.reset, by decide, rfl⟩, ⟨{ running 0x200 [] with fault := 3 }, by decide, rfl⟩⟩

theorem witness_FetchOutOfRangeFaults : (∃ s : State, s.pc.toNat = 0xFFE) ∧
    ∃ s : State, s.run = true ∧ s.fault = 0 ∧ s.pc.toNat = 0xFFF :=
  ⟨⟨running 0xFFE [], rfl⟩, ⟨running 0xFFF [], rfl, rfl, rfl⟩⟩

theorem witness_FaultIsPrecise :
    (∃ s t : State, s.fault = 0 ∧ step s = .next t ∧ t.fault = 1) ∧ ∃ s t : State, s.fault = 0 ∧ step s = .next t ∧ t.fault = 3 :=
  ⟨⟨running 0xFFF [], _, rfl, rfl, rfl⟩, ⟨(running 0x200 []).placeWord 0x00EE, _, rfl, rfl, rfl⟩⟩

/-- All six codes of R162, and a STEP that ends with none. -/
theorem witness_FaultExactlyWhen :
    ∀ p ∈ [(running 0xFFF [], 1), ((running 0x200 []).setI 0xFFE |>.placeWord 0xF033, 2), ((running 0x200 []).placeWord 0x00EE, 3),
        (({ running 0x200 [] with sp := 16 } : State).placeWord 0x2456, 4),
        (((running 0x200 [(0, 57)]).setI 0x300 |>.storeBytes 0x300 [0xFF]).placeWord 0xD011, 5),
        ((running 0x200 [(0, 0x10)]).placeWord 0xE09E, 6), ((running 0x200 []).placeWord 0x6005, 0)],
      p.1.run = true ∧ p.1.fault = 0 ∧ answers (stepEvent p.1) (fun t => t.fault == BitVec.ofNat 3 p.2) = true := by
  simp only [List.forall_mem_cons]; exact ⟨by decide, by decide, by decide, by decide, by decide, by decide, by decide, by simp⟩

theorem witness_HaltedUntilReset : ∃ s : State, s.Inv ∧ s.fault ≠ 0 ∧ s.run = true :=
  ⟨{ running 0x200 [] with fault := 6, faultPc := 0x200 }, ⟨rfl, by decide, by decide, by decide, by decide, fun _ => rfl,
    fun _ => rfl, fun _ => rfl, fun e => absurd e (by decide)⟩, by decide, rfl⟩

/-- The next state of each event of R180 but RESET in a halted state. -/
theorem witness_HaltedUntilReset_events (e : Event) : ∃ t, applyEvent e { running 0x200 [] with fault := 6 } = .next t := by
  cases e <;> exact ⟨_, rfl⟩

theorem witness_LoadIsAllOrNothing :
    (∃ s : State, s.started = true) ∧
    (∃ (base : Fin 4097) (bytes : List Byte) (s : State), s.started = false ∧ base.val + bytes.length = 4097) ∧
    ∃ (base : Fin 4097) (bytes : List Byte) (s : State), s.started = false ∧ base.val + bytes.length = 4096 ∧ bytes ≠ [] ∧
      Memory.wf s.mem = true :=
  ⟨⟨running 0x200 [], rfl⟩, ⟨4096, [1], State.reset, rfl, rfl⟩, ⟨4095, [1], State.reset, rfl, rfl, by decide, rfl⟩⟩

theorem witness_StartStopSetKey : (∃ s : State, s.run = true ∧ s.started = true) ∧ ∃ s : State, s.fault ≠ 0 :=
  ⟨⟨running 0x200 [], rfl, rfl⟩, ⟨{ State.reset with fault := 3 }, by decide⟩⟩

theorem witness_TickCountsDown : (∃ s : State, s.run = true ∧ s.dt = 0 ∧ s.st = 0xFF) ∧ ∃ s : State, s.run = false :=
  ⟨⟨{ running 0x200 [] with st := 0xFF }, rfl, rfl, rfl⟩, ⟨State.reset, rfl⟩⟩

/-- A TICK, a STEP of the word 0x0000, a SETKEY and a TICK. -/
theorem witness_DelayTimerDecaysByTicks : ∃ s t : State,
    s.run = true ∧ NoDelayWrite 4 s ∧ Sys2Proof.core.run 4 s = .next t ∧ s.dt = 2 ∧ (s.schedule.take 4).count .tick = 2 := by
  refine ⟨{ running 0x200 [] with dt := 2, schedule := [.tick, .step, .setKey 3 true, .tick] }, _, rfl,
    ⟨.inl rfl, ?_⟩, rfl, rfl, rfl⟩
  intro t h
  obtain rfl := Host.Outcome.next.inj h
  refine ⟨.inr (.inr ⟨rfl, by decide⟩), ?_⟩
  intro t h
  obtain rfl := Host.Outcome.next.inj h
  refine ⟨.inr (.inl ⟨3, true, rfl⟩), ?_⟩
  intro t h
  obtain rfl := Host.Outcome.next.inj h
  exact ⟨.inl rfl, fun _ _ => trivial⟩

theorem witness_ReturnPopsTheStack : (∃ s : State, 0 < s.sp.val) ∧ ∃ s : State, s.sp.val = 0 :=
  ⟨⟨{ State.reset with sp := 1 }, by decide⟩, ⟨State.reset, rfl⟩⟩

theorem witness_CallPushesTheStack : (∃ s : State, s.sp.val = 15) ∧ ∃ s : State, s.sp.val = 16 :=
  ⟨⟨{ State.reset with sp := 15 }, rfl⟩, ⟨{ State.reset with sp := 16 }, rfl⟩⟩

theorem witness_StoreDecimalDigits : (∃ s : State, s.i.toNat + 2 = 4095 ∧ Memory.wf s.mem = true) ∧ ∃ s : State, s.i.toNat + 2 = 4096 :=
  ⟨⟨State.reset.setI 0xFFD, rfl, rfl⟩, ⟨State.reset.setI 0xFFE, rfl⟩⟩

theorem witness_StoreRegisters : (∃ (x : Reg) (s : State), s.i.toNat + x.val = 4095 ∧ Memory.wf s.mem = true) ∧
    ∃ (x : Reg) (s : State), s.i.toNat + x.val = 4096 :=
  ⟨⟨15, State.reset.setI 0xFF0, rfl, rfl⟩, ⟨1, State.reset.setI 0xFFF, rfl⟩⟩

theorem witness_LoadRegisters : (∃ (x : Reg) (s : State), s.i.toNat + x.val = 4095) ∧ ∃ (x : Reg) (s : State), s.i.toNat + x.val = 4096 :=
  ⟨⟨15, State.reset.setI 0xFF0, rfl⟩, ⟨1, State.reset.setI 0xFFF, rfl⟩⟩

theorem witness_DumpThenLoadRestores : ∃ (x : Reg) (s t t' : State), s.i.toNat + x.val ≤ 4095 ∧ Memory.wf s.mem = true ∧
    exec (.ldMemVx x) s = .next t ∧ t'.mem = t.mem ∧ t'.i = t.i ∧ t'.v ≠ t.v :=
  ⟨1, (start 0x200 [(0, 7), (1, 9)]).setI 0xFFE, _, { start 0x200 [] with i := 0xFFE, mem := [(0xFFE, 7), (0xFFF, 9)] }, by decide,
    rfl, rfl, rfl, rfl, by decide⟩

theorem witness_StoredWordIsFetched : ∃ (x k : Reg) (s t : State) (a : Word), s.i.toNat + x.val ≤ 4095 ∧ Memory.wf s.mem = true ∧
    exec (.ldMemVx x) s = .next t ∧ k < x ∧ a.toNat = s.i.toNat + k.val :=
  ⟨15, 14, State.reset.setI 0xFF0, _, 0xFFE, by decide, rfl, rfl, by decide, rfl⟩

/-- G4, G13 and G5: one row on the corner, a source range past memory, and a set bit past the right edge. -/
theorem witness_DrawSprite :
    (∃ s : State, SpriteInMemory s 1 ∧ SpriteInGrid s 0 1 1 ∧ SpriteBitSet s 1 0 7 ∧ (s.readV 0).toNat + 7 = 63) ∧
    (∃ s : State, ¬ SpriteInMemory s 2 ∧ s.i = 0xFFF) ∧ ∃ s : State, SpriteInMemory s 1 ∧ ¬ SpriteInGrid s 0 1 1 := by
  refine ⟨⟨((start 0x200 [(0, 56), (1, 31)]).setI 0xFFF).storeBytes 0xFFF [0xFF], fun _ => by decide, ?_, by unfold SpriteBitSet; decide, rfl⟩,
    ⟨State.reset.setI 0xFFF, by unfold SpriteInMemory; decide, rfl⟩,
    ⟨((start 0x200 [(0, 57), (1, 0)]).setI 0x300).storeBytes 0x300 [0xFF], fun _ => by decide, fun h => ?_⟩⟩
  · rintro r c ⟨hr, hc, -⟩
    have hr : r < 1 := hr
    show 56 + c ≤ 63 ∧ 31 + r ≤ 31
    omega
  · have := (h 0 7 (by unfold SpriteBitSet; decide)).1
    revert this; decide

/-- A sprite with a set bit on pixels that are clear, and a sprite with no row. -/
theorem witness_DrawTwiceRestores :
    (∃ s t : State, s.fault = 0 ∧ exec (.drwVxVyN 0 1 1) s = .next t ∧ t.fault = 0 ∧
      (∀ px py, SpriteCovers s 0 1 1 px py → s.pixelRead px py = false) ∧ ∃ r c, SpriteBitSet s 1 r c) ∧
    ∃ s t : State, s.fault = 0 ∧ exec (.drwVxVyN 0 1 0) s = .next t ∧ t.fault = 0 ∧ ¬ ∃ r c, SpriteBitSet s 0 r c := by
  refine ⟨⟨((start 0x200 []).setI 0x300).storeBytes 0x300 [0x80], _, rfl, rfl, rfl,
      fun px py _ => Framebuffer.pixel_blank px py, 0, 0, by unfold SpriteBitSet; decide⟩,
    ⟨start 0x200 [], _, rfl, rfl, rfl, ?_⟩⟩
  rintro ⟨r, c, hr, -⟩
  exact absurd hr (by simp)

theorem witness_KeySkips : (∃ s : State, (s.readV 0).toNat = 15) ∧ ∃ s : State, (s.readV 0).toNat = 16 :=
  ⟨⟨start 0x200 [(0, 15)], rfl⟩, ⟨start 0x200 [(0, 16)], rfl⟩⟩

/-- Each field is changed by one of its writers. -/
theorem witness_EachFieldHasItsWriters :
    (∃ t, exec (.ldVxMem 0xF) ((start 0x200 []).setI 0x300 |>.storeBytes 0x30F [7]) = .next t ∧ t.readV 0xF ≠ 0) ∧
    (∃ t, exec (.callAddr 0x300) { State.reset with sp := 16 } = .next t ∧ t.fault ≠ 0 ∧ t.faultPc ≠ 0 ∧ t.faultOp ≠ 0) ∧
    (∃ t, exec (.ldIAddr 0xFFF) State.reset = .next t ∧ t.i ≠ State.reset.i) ∧
    (∃ t, exec (.callAddr 0x300) State.reset = .next t ∧ t.sp ≠ State.reset.sp ∧ t.stack ≠ State.reset.stack) ∧
    (∃ t, exec (.ldDtVx 0) (start 0x200 [(0, 1)]) = .next t ∧ t.dt ≠ 0) ∧
    (∃ t, exec (.ldStVx 0) (start 0x200 [(0, 1)]) = .next t ∧ t.st ≠ 0) ∧
    (∃ s t : State, exec (.cls 0) s = .next t ∧ t.fb ≠ s.fb) ∧
    (∃ t, exec (.ldBVx 0) ((start 0x200 [(0, 255)]).setI 0x300) = .next t ∧ t.mem ≠ []) ∧
    ∃ t, exec (.rndVxByte 0 0) State.reset = .next t ∧ t.draws ≠ State.reset.draws := by
  refine ⟨⟨_, rfl, by decide⟩, ⟨_, rfl, by decide, by decide, by decide⟩, ⟨_, rfl, by decide⟩,
    ⟨_, rfl, by decide, by decide⟩, ⟨_, rfl, by decide⟩, ⟨_, rfl, by decide⟩, ⟨{ State.reset with fb := State.reset.fb.toggle 0 0 }, _, rfl, fun h => ?_⟩, ⟨_, rfl, by decide⟩, ⟨_, rfl, by decide⟩⟩
  exact absurd (congrArg (Framebuffer.pixel · 0 0) h) (by decide)

theorem witness_FlagRegisterHasItsWriters :
    (∃ s t : State, exec (.addVxVy 0 1) s = .next t ∧ t.readV 0xF ≠ s.readV 0xF) ∧
    ∃ s t : State, exec (.drwVxVyN 0 1 0) s = .next t ∧ s.fault = 0 ∧ t.fault = 0 :=
  ⟨⟨start 0x200 [(0, 0xFF), (1, 1)], _, rfl, by decide⟩, ⟨State.reset, _, rfl, rfl, rfl⟩⟩

/-- A return from an empty stack, and a jump. -/
theorem witness_NothingReadsTheLatches :
    (∃ t, exec (.ret 0) State.reset = .next t ∧ ∃ code, ExecuteFault (.ret 0) State.reset code) ∧
    ∃ t, exec (.jpAddr 0x300) State.reset = .next t ∧ ¬ ∃ code, ExecuteFault (.jpAddr 0x300) State.reset code :=
  ⟨⟨_, rfl, 3, .inl ⟨0, rfl, rfl, rfl⟩⟩, ⟨_, rfl, by simp [ExecuteFault]⟩⟩

theorem witness_SoundAndKeysAreHidden : ∃ t u, exec (.ldStVx 0) State.reset = .next t ∧ exec (.ldDtVx 0) State.reset = .next u ∧
    (¬ ∃ x, Instr.ldDtVx 0 = .ldStVx x) ∧ ¬ ∃ x, Instr.ldDtVx 0 = .skpVx x ∨ Instr.ldDtVx 0 = .sknpVx x :=
  ⟨_, _, rfl, rfl, by simp, by simp⟩

theorem witness_TickCommutesWithOtherInstructions : ∃ t, exec (.callAddr 0x300) (running 0x200 []) = .next t ∧
    ¬ ∃ x, Instr.callAddr 0x300 = .ldVxDt x ∨ Instr.callAddr 0x300 = .ldDtVx x ∨ Instr.callAddr 0x300 = .ldStVx x :=
  ⟨_, rfl, by simp⟩

/-- Sixteen calls from an empty stack, and sixteen returns. -/
theorem witness_NestedCallsReturnInOrder : ∃ (targets : List (BitVec 12)) (s : State) (m : Nat),
    s.sp.val + targets.length = 16 ∧ 1 ≤ m ∧ m = targets.length :=
  ⟨List.replicate 16 0x210, State.reset, 16, rfl, by decide, rfl⟩

/-- The source's scenario S1: `1200` at 0x200. -/
theorem witness_FinishedIsAFixedPoint : ∃ s : State, s.Finished ∧ s.run = true :=
  ⟨(running 0x200 []).placeWord 0x1200, ⟨rfl, by decide, 0x200, rfl, rfl⟩, rfl⟩

theorem witness_CanonicalMemoriesAreEqual : ∃ m m' : Memory, Memory.wf m = true ∧ Memory.wf m' = true ∧
    (∀ a, Memory.read m a = Memory.read m' a) ∧ m ≠ [] := ⟨[(0xFFF, 1)], [(0xFFF, 1)], rfl, rfl, fun _ => rfl, by decide⟩

theorem witness_StepKeepsInv : ∃ s t : State, s.Inv ∧ step s = .next t ∧ t ≠ s :=
  ⟨{ State.reset with schedule := [.start] }, _, ⟨rfl, by decide, by decide, by decide, by decide, by decide, by decide, by decide,
    by decide⟩, rfl, fun h => absurd (congrArg State.run h) (by decide)⟩

/-- RESET to STEP: load a program, start it and run it. -/
theorem witness_ReachableStatesMeetInv : ∃ t, Sys2Proof.core.run 3
    ({ State.reset with schedule := [.load 0x200 [0x60, 0x05], .start, .step] } : State) = .next t ∧ t.readV 0 = 5 ∧ t.pc = 0x202 :=
  ⟨_, rfl, rfl, rfl⟩

end Sys2Proof.Tests
end

/-! The STEP event and its fetch: the statements about R80 and R81. -/

namespace Sys2Proof.StepCycle

open Sys2Proof.Machine Sys2Proof.Claims

/-- Taking a fault writes the fault registers alone (R161). -/
theorem takeFault_onlyFaultRegisters (s : State) (cause : FaultCode) (op : Word) :
    OnlyFaultRegisters s (s.takeFault cause op) :=
  ⟨rfl, State.takeFault_loadByte s cause op⟩

/-- With `PC` above 0xFFE an enabled STEP takes the fetch fault (R81). -/
theorem stepEvent_of_pc_gt {s : State} (he : s.stepEnabled = true) (hpc : 0xFFE < s.pc.toNat) :
    stepEvent s = .next (s.takeFault .fetchRange 0x0000) :=
  stepEvent_unfetched he (State.fetch_of_gt (Nat.not_le.mpr hpc))

/-- Settles O7: in range the fetch is the big-endian word, above 0xFFE the answer is `takeFault`. -/
theorem fetchOutOfRangeFaults : Obligations.FetchOutOfRangeFaults := by
  intro s
  constructor
  · intro hpc
    exact ⟨_, State.fetch_of_le hpc, wordOfBytes_toNat _ _⟩
  · intro hrun hfault hpc
    have henabled : s.stepEnabled = true := State.stepEnabled_iff.mpr ⟨hrun, hfault⟩
    exact ⟨_, stepEvent_of_pc_gt henabled hpc, rfl, State.takeFault_faultPc .., State.takeFault_faultOp ..,
      takeFault_onlyFaultRegisters ..⟩

/-- Settles O6: a STEP without effect is the disabled one, and every STEP answers. -/
theorem stepIgnoredUnlessEnabled : Obligations.StepIgnoredUnlessEnabled := by
  intro s
  constructor
  · intro hnot
    have hdisabled : s.stepEnabled = false := Bool.eq_false_iff.mpr (mt State.stepEnabled_iff.mp hnot)
    exact stepEvent_disabled hdisabled
  · exact stepEvent_answers s

end Sys2Proof.StepCycle

/-! The rows of the opcode map (R62, R66), once for each format: `encode` undoes `decodeWord`, so a word that decodes to a row's
instruction is of that row, and a word of the row has its fields. -/

namespace Sys2Proof.OpcodeRows

open Sys2Proof.Claims

/-! A word rebuilt from the fields a row names. -/

theorem formNNN_of_opclass {op : Word} {o : BitVec 4} (ho : opclass op = o) : formNNN o (addr12 op) = op := by
  rw [← ho, formNNN_fields]

theorem formXKK_of_fields {op : Word} {o : BitVec 4} {kk : Byte} (ho : opclass op = o) (hkk : imm8 op = kk) :
    formXKK o (bits11to8 op) kk = op := by
  rw [← ho, ← hkk, formXKK_fields]

theorem formXYN_of_fields {op : Word} {o n : BitVec 4} (ho : opclass op = o) (hn : subop4 op = n) :
    formXYN o (bits11to8 op) (regBits (regY op)) n = op := by
  rw [← ho, ← hn, formXYN_fields]

/-! `encode` undoes the decoder, family by family (R65, R69). -/

theorem encode_decodeFamily0 {op : Word} (ho : opclass op = 0x0#4) : encode (decodeFamily0 op) = op := by
  unfold decodeFamily0
  split_ifs with hE0 hEE
  · exact formXKK_of_fields ho hE0
  · exact formXKK_of_fields ho hEE
  · exact formNNN_of_opclass ho

theorem encode_decodeFamily8 {op : Word} (ho : opclass op = 0x8#4) : encode (decodeFamily8 op) = op := by
  unfold decodeFamily8
  split_ifs with h0 h1 h2 h3 h4 h5 h6 hE
  · exact formXYN_of_fields ho h0
  · exact formXYN_of_fields ho h1
  · exact formXYN_of_fields ho h2
  · exact formXYN_of_fields ho h3
  · exact formXYN_of_fields ho h4
  · exact formXYN_of_fields ho h5
  · exact formXYN_of_fields ho h6
  · exact formXYN_of_fields ho hE
  · exact formNNN_of_opclass ho

theorem encode_decodeFamilyE {op : Word} (ho : opclass op = 0xE#4) : encode (decodeFamilyE op) = op := by
  unfold decodeFamilyE
  split_ifs with h9E hA1
  · exact formXKK_of_fields ho h9E
  · exact formXKK_of_fields ho hA1
  · exact formNNN_of_opclass ho

theorem encode_decodeFamilyF {op : Word} (ho : opclass op = 0xF#4) : encode (decodeFamilyF op) = op := by
  unfold decodeFamilyF
  split_ifs with h07 h15 h18 h29 h33 h55 h65
  · exact formXKK_of_fields ho h07
  · exact formXKK_of_fields ho h15
  · exact formXKK_of_fields ho h18
  · exact formXKK_of_fields ho h29
  · exact formXKK_of_fields ho h33
  · exact formXKK_of_fields ho h55
  · exact formXKK_of_fields ho h65
  · exact formNNN_of_opclass ho

/-- The word a decoded instruction encodes to is the word itself: the decoder forgets no bit (R64, R69). -/
theorem encode_decodeWord (op : Word) : encode (decodeWord op) = op := by
  rcases opclass_cases op with ho | ho | ho | ho | ho | ho | ho | ho | ho | ho | ho | ho | ho | ho | ho | ho
  · rw [decodeWord_family0 ho, encode_decodeFamily0 ho]
  · rw [decodeWord_family1 ho]; exact formNNN_of_opclass ho
  · rw [decodeWord_family2 ho]; exact formNNN_of_opclass ho
  · rw [decodeWord_family3 ho]; exact formXKK_of_fields ho rfl
  · rw [decodeWord_family4 ho]; exact formXKK_of_fields ho rfl
  · rw [decodeWord_family5 ho]; exact formNNN_of_opclass ho
  · rw [decodeWord_family6 ho]; exact formXKK_of_fields ho rfl
  · rw [decodeWord_family7 ho]; exact formXKK_of_fields ho rfl
  · rw [decodeWord_family8 ho, encode_decodeFamily8 ho]
  · rw [decodeWord_family9 ho]; exact formNNN_of_opclass ho
  · rw [decodeWord_familyA ho]; exact formNNN_of_opclass ho
  · rw [decodeWord_familyB ho]; exact formNNN_of_opclass ho
  · rw [decodeWord_familyC ho]; exact formXKK_of_fields ho rfl
  · rw [decodeWord_familyD ho]; exact formXYN_of_fields ho rfl
  · rw [decodeWord_familyE ho, encode_decodeFamilyE ho]
  · rw [decodeWord_familyF ho, encode_decodeFamilyF ho]

theorem eq_encode_of_decodeWord {op : Word} {i : Instr} (h : decodeWord op = i) : op = encode i := by
  rw [← h, encode_decodeWord]

/-! The words under a mask. -/

theorem and_F000_eq_iff {op : Word} {o : BitVec 4} : op &&& 0xF000#16 = formNNN o 0 ↔ opclass op = o := by
  rw [and_F000]
  exact ⟨fun h => (formNNN_inj h).1, fun h => by rw [h]⟩

theorem and_F0FF_eq_iff {op : Word} {o : BitVec 4} {kk : Byte} :
    op &&& 0xF0FF#16 = formXKK o 0 kk ↔ opclass op = o ∧ imm8 op = kk := by
  rw [and_F0FF]
  constructor
  · intro h
    obtain ⟨ho, -, hkk⟩ := formXKK_inj h
    exact ⟨ho, hkk⟩
  · rintro ⟨rfl, rfl⟩
    rfl

/-! The rows. `hdecode` is the decoder's line for the row, `hencode` the encoder's. -/

theorem rowNNN {o : BitVec 4} {c : BitVec 12 → Instr} (hdecode : ∀ {op}, opclass op = o → decodeWord op = c (addr12 op))
    (hencode : ∀ nnn, encode (c nnn) = formNNN o nnn) : RowNNN (formNNN o 0) c := by
  intro op
  rw [and_F000_eq_iff]
  constructor
  · intro ho
    exact ⟨addr12 op, addr12_toNat op, hdecode ho⟩
  · rintro ⟨nnn, -, hop⟩
    rw [eq_encode_of_decodeWord hop, hencode, opclass_formNNN]

theorem rowXKK {o : BitVec 4} {c : Reg → Byte → Instr}
    (hdecode : ∀ {op}, opclass op = o → decodeWord op = c (regX op) (imm8 op))
    (hencode : ∀ x kk, encode (c x kk) = formXKK o (regBits x) kk) : RowXKK (formNNN o 0) c := by
  intro op
  rw [and_F000_eq_iff]
  constructor
  · intro ho
    exact ⟨regX op, imm8 op, regX_val op, imm8_toNat op, hdecode ho⟩
  · rintro ⟨x, kk, -, -, hop⟩
    rw [eq_encode_of_decodeWord hop, hencode, opclass_formXKK]

theorem rowD8 {o : BitVec 4} {kk : Byte} {c : BitVec 4 → Instr}
    (hdecode : ∀ {op}, opclass op = o → imm8 op = kk → decodeWord op = c (bits11to8 op))
    (hencode : ∀ ignored, encode (c ignored) = formXKK o ignored kk) : RowD8 (formXKK o 0 kk) c := by
  intro op
  rw [and_F0FF_eq_iff]
  constructor
  · rintro ⟨ho, hkk⟩
    exact ⟨bits11to8 op, bits11to8_toNat op, hdecode ho hkk⟩
  · rintro ⟨ignored, -, hop⟩
    rw [eq_encode_of_decodeWord hop, hencode, opclass_formXKK, imm8_formXKK]
    exact ⟨rfl, rfl⟩

end Sys2Proof.OpcodeRows

/-! Control transfer: the statements about R90 to R94. -/

namespace Sys2Proof.ControlTransfer

open Sys2Proof.Machine Sys2Proof.Claims Sys2Proof.OpcodeRows

/-! A fault of the execute stage, and the skip of R87. -/

/-- An instruction that takes a fault with its own word faults precisely (R161, R163). -/
theorem faultsWith_of_exec_takeFault {i : Instr} {s : State} {cause : FaultCode}
    (h : exec i s = .next (s.takeFault cause (encode i))) : FaultsWith cause.toBits.toNat i s := by
  have hhalted : (s.takeFault cause (encode i)).halted = true := bne_iff_ne.mpr (FaultCode.toBits_ne_zero cause)
  exact ⟨_, h, rfl, rfl, rfl, hhalted, StepCycle.takeFault_onlyFaultRegisters s cause (encode i)⟩

theorem advance_skipIf_onlyPc (s : State) (taken : Bool) : OnlyPc s (s.advance.skipIf taken) := by
  cases taken <;> exact ⟨rfl, fun _ => rfl⟩

theorem advance_skipIf_pcPlus_four {s : State} {taken : Bool} (h : taken = true) :
    PcPlus 4 s (s.advance.skipIf taken) := by
  simp [PcPlus, h, BitVec.toNat_add]

theorem advance_skipIf_pcPlus_two {s : State} {taken : Bool} (h : taken = false) :
    PcPlus 2 s (s.advance.skipIf taken) := by
  simp [PcPlus, h, BitVec.toNat_add]

/-! `00EE` -/

theorem decodeWord_ret {op : Word} (ho : opclass op = 0x0#4) (hEE : imm8 op = 0xEE#8) :
    decodeWord op = .ret (bits11to8 op) := by
  simp [decodeWord_family0 ho, decodeFamily0, hEE]

theorem exec_ret_of_pos (ignored : BitVec 4) {s : State} (h : s.sp.val ≠ 0) :
    exec (.ret ignored) s = .next { s with sp := ⟨s.sp.val - 1, by omega⟩, pc := s.stack[s.sp.val - 1] } := by
  rw [exec_ret, if_neg h]

theorem exec_ret_of_empty (ignored : BitVec 4) {s : State} (h : s.sp.val = 0) :
    exec (.ret ignored) s = .next (s.takeFault .stackUnderflow (encode (.ret ignored))) := by
  rw [exec_ret, if_pos h]

/-- Settles O18: with an entry the answer is the popped state, without one it is `takeFault`. -/
theorem returnPopsTheStack : Obligations.ReturnPopsTheStack := by
  refine ⟨rowD8 decodeWord_ret fun _ => rfl, fun ignored s => ⟨fun hpos => ?_, fun hempty => ?_⟩⟩
  · have hentry : s.stack[s.sp.val - 1]? = some s.stack[s.sp.val - 1] := Vector.getElem?_eq_getElem _
    exact ⟨_, exec_ret_of_pos ignored (Nat.ne_of_gt hpos), rfl, hentry, rfl, fun _ => rfl⟩
  · exact faultsWith_of_exec_takeFault (exec_ret_of_empty ignored hempty)

/-! `1nnn` -/

/-- Settles O19: the answer is the advanced state with `PC` overwritten. -/
theorem jumpSetsPc : Obligations.JumpSetsPc :=
  ⟨rowNNN decodeWord_family1 fun _ => rfl, fun nnn s => ⟨_, exec_jpAddr nnn s, zextAddr_toNat nnn, rfl, fun _ => rfl⟩⟩

/-! `2nnn` -/

theorem exec_callAddr_of_lt (nnn : BitVec 12) {s : State} (h : s.sp.val < 16) :
    exec (.callAddr nnn) s = .next
      { s with stack := s.stack.set s.sp.val (s.pc + 2), sp := ⟨s.sp.val + 1, by omega⟩, pc := zextAddr nnn } := by
  rw [exec_callAddr, dif_pos h]

theorem exec_callAddr_of_full (nnn : BitVec 12) {s : State} (h : s.sp.val = 16) :
    exec (.callAddr nnn) s = .next (s.takeFault .stackOverflow (encode (.callAddr nnn))) := by
  rw [exec_callAddr, dif_neg (by omega)]

/-- Settles O20: with room the answer is the pushed state, on a full stack it is `takeFault`. -/
theorem callPushesTheStack : Obligations.CallPushesTheStack := by
  refine ⟨rowNNN decodeWord_family2 fun _ => rfl, fun nnn s => ⟨fun hroom => ?_, fun hfull => ?_⟩⟩
  · have hsaved : (s.stack.set s.sp.val (s.pc + 2))[s.sp.val]? = some (s.pc + 2) := by simp [hroom]
    have hothers (k : Fin 16) (hk : k.val ≠ s.sp.val) :
        (s.stack.set s.sp.val (s.pc + 2))[k.val] = s.stack[k.val] := Vector.getElem_set_ne _ k.isLt hk.symm
    exact ⟨_, exec_callAddr_of_lt nnn hroom, ⟨_, hsaved, State.advance_pc_toNat s⟩, hothers, rfl, zextAddr_toNat nnn,
      rfl, fun _ => rfl⟩
  · exact faultsWith_of_exec_takeFault (exec_callAddr_of_full nnn hfull)

/-! `3xkk` and `4xkk` -/

/-- Settles O21: the skip's condition, on bytes, is the statement's, on numbers. -/
theorem skipsOnImmediate : Obligations.SkipsOnImmediate := by
  refine ⟨rowXKK decodeWord_family3 fun _ _ => rfl, rowXKK decodeWord_family4 fun _ _ => rfl, fun x kk s => ?_⟩
  refine ⟨⟨_, exec_seVxByte x kk s, ?_, advance_skipIf_onlyPc ..⟩, ⟨_, exec_sneVxByte x kk s, ?_, advance_skipIf_onlyPc ..⟩⟩
  · split_ifs with heq
    · exact advance_skipIf_pcPlus_four (beq_iff_eq.mpr (BitVec.eq_of_toNat_eq heq))
    · exact advance_skipIf_pcPlus_two (beq_eq_false_iff_ne.mpr fun h => heq (congrArg BitVec.toNat h))
  · split_ifs with heq
    · exact advance_skipIf_pcPlus_two (bne_eq_false_iff_eq.mpr (BitVec.eq_of_toNat_eq heq))
    · exact advance_skipIf_pcPlus_four (bne_iff_ne.mpr fun h => heq (congrArg BitVec.toNat h))

end Sys2Proof.ControlTransfer

/-! The rows of format `XYS`, and the rows of family 0x8 in the decoder (R65, R66). -/

namespace Sys2Proof.OpcodeRows

open Sys2Proof.Claims

theorem and_F00F_eq_iff {op : Word} {o n : BitVec 4} :
    op &&& 0xF00F#16 = formXYN o 0 0 n ↔ opclass op = o ∧ subop4 op = n := by
  rw [and_F00F]
  constructor
  · intro h
    exact ⟨by simpa using congrArg opclass h, by simpa using congrArg subop4 h⟩
  · rintro ⟨rfl, rfl⟩
    rfl

theorem rowXYS {o n : BitVec 4} {c : Reg → Reg → Instr}
    (hdecode : ∀ {op}, opclass op = o → subop4 op = n → decodeWord op = c (regX op) (regY op))
    (hencode : ∀ x y, encode (c x y) = formXYN o (regBits x) (regBits y) n) : RowXYS (formXYN o 0 0 n) c := by
  intro op
  rw [and_F00F_eq_iff]
  constructor
  · rintro ⟨ho, hn⟩
    exact ⟨regX op, regY op, regX_val op, regY_val op, hdecode ho hn⟩
  · rintro ⟨x, y, -, -, hop⟩
    rw [eq_encode_of_decodeWord hop, hencode, opclass_formXYN, subop4_formXYN]
    exact ⟨rfl, rfl⟩

section
variable {op : Word} (ho : opclass op = 0x8#4)
include ho

theorem decodeWord_ldVxVy (hn : subop4 op = 0x0#4) : decodeWord op = .ldVxVy (regX op) (regY op) := by
  simp [decodeWord_family8 ho, decodeFamily8, hn]

theorem decodeWord_orVxVy (hn : subop4 op = 0x1#4) : decodeWord op = .orVxVy (regX op) (regY op) := by
  simp [decodeWord_family8 ho, decodeFamily8, hn]

theorem decodeWord_andVxVy (hn : subop4 op = 0x2#4) : decodeWord op = .andVxVy (regX op) (regY op) := by
  simp [decodeWord_family8 ho, decodeFamily8, hn]

theorem decodeWord_xorVxVy (hn : subop4 op = 0x3#4) : decodeWord op = .xorVxVy (regX op) (regY op) := by
  simp [decodeWord_family8 ho, decodeFamily8, hn]

theorem decodeWord_addVxVy (hn : subop4 op = 0x4#4) : decodeWord op = .addVxVy (regX op) (regY op) := by
  simp [decodeWord_family8 ho, decodeFamily8, hn]

theorem decodeWord_subVxVy (hn : subop4 op = 0x5#4) : decodeWord op = .subVxVy (regX op) (regY op) := by
  simp [decodeWord_family8 ho, decodeFamily8, hn]

theorem decodeWord_shrVxVy (hn : subop4 op = 0x6#4) : decodeWord op = .shrVxVy (regX op) (regY op) := by
  simp [decodeWord_family8 ho, decodeFamily8, hn]

theorem decodeWord_shlVxVy (hn : subop4 op = 0xE#4) : decodeWord op = .shlVxVy (regX op) (regY op) := by
  simp [decodeWord_family8 ho, decodeFamily8, hn]

end

end Sys2Proof.OpcodeRows

/-! Register load and ALU: the statements about R101 to R110. -/

namespace Sys2Proof.Alu

open Sys2Proof.Machine Sys2Proof.Claims Sys2Proof.OpcodeRows

/-! The two answers of this group: one register written, or a result and a flag (R82, R100). -/

theorem readV_writeV_self (s : State) (x : Reg) (b : Byte) : (s.writeV x b).readV x = b := by
  rw [State.readV_writeV, if_pos rfl]

theorem readV_writeV_ne {x r : Reg} (h : r ≠ x) (s : State) (b : Byte) : (s.writeV x b).readV r = s.readV r := by
  rw [State.readV_writeV, if_neg h.symm]

theorem advance_writeV_frame (s : State) (x : Reg) (b : Byte) :
    KeepsVBut x s (s.advance.writeV x b) ∧ PcPlus 2 s (s.advance.writeV x b) ∧ OnlyV s (s.advance.writeV x b) :=
  ⟨fun _ hr => readV_writeV_ne hr s.advance b, State.advance_pc_toNat s, rfl, fun _ => rfl⟩

theorem readV_writeResultAndFlag_flag (s : State) (x : Reg) (b : Byte) (flag : Bool) :
    (s.writeResultAndFlag x b flag).readV 0xF = flagByte flag :=
  readV_writeV_self _ flagReg _

theorem readV_writeResultAndFlag_result {x : Reg} (hx : x ≠ 0xF) (s : State) (b : Byte) (flag : Bool) :
    (s.writeResultAndFlag x b flag).readV x = b := by
  rw [State.writeResultAndFlag, readV_writeV_ne (x := flagReg) hx, readV_writeV_self]

theorem advance_writeResultAndFlag_frame (s : State) (x : Reg) (b : Byte) (flag : Bool) :
    KeepsVButFlagAnd x s (s.advance.writeResultAndFlag x b flag) ∧
      PcPlus 2 s (s.advance.writeResultAndFlag x b flag) ∧ OnlyV s (s.advance.writeResultAndFlag x b flag) := by
  refine ⟨fun r hx hF => ?_, State.advance_pc_toNat s, rfl, fun _ => rfl⟩
  rw [State.writeResultAndFlag, readV_writeV_ne (x := flagReg) hF, readV_writeV_ne hx, State.advance_readV]

/-! The results and the flags as numbers (R12, R107 to R110). -/

theorem sub_toNat (p q : Byte) :
    (p - q).toNat = if q.toNat ≤ p.toNat then p.toNat - q.toNat else p.toNat + 256 - q.toNat := by
  have hp := p.isLt
  have hq := q.isLt
  rw [BitVec.toNat_sub]
  split_ifs <;> omega

theorem shiftRight_one_toNat (q : Byte) : (q >>> 1).toNat = q.toNat / 2 := by
  rw [BitVec.toNat_ushiftRight, Nat.shiftRight_eq_div_pow, pow_one]

theorem shiftLeft_one_toNat (q : Byte) : (q <<< 1).toNat = q.toNat * 2 % 256 := by
  rw [BitVec.toNat_shiftLeft, Nat.shiftLeft_eq, pow_one]

theorem flagByte_toNat_of_iff {flag : Bool} {p : Prop} [Decidable p] (h : flag = true ↔ p) :
    (flagByte flag).toNat = if p then 1 else 0 := by
  simp only [flagByte_toNat, h]

theorem shiftedOutRight_toNat (q : Byte) : (flagByte (shiftedOutRight q)).toNat = q.toNat % 2 := by
  rw [flagByte_toNat_of_iff (shiftedOutRight_iff q)]
  split_ifs <;> omega

theorem shiftedOutLeft_toNat (q : Byte) : (flagByte (shiftedOutLeft q)).toNat = q.toNat / 128 := by
  have hq := q.isLt
  rw [flagByte_toNat_of_iff (shiftedOutLeft_iff q)]
  split_ifs <;> omega

/-! `6xkk` and `7xkk` -/

/-- Settles O22: the answer is the advanced state with `V[x]` overwritten. -/
theorem loadImmediate : Obligations.LoadImmediate :=
  ⟨rowXKK decodeWord_family6 fun _ _ => rfl, fun x kk s =>
    ⟨_, exec_ldVxByte x kk s, readV_writeV_self .., advance_writeV_frame ..⟩⟩

/-- Settles O23: `V[x]` after one addition is the sum modulo 256, so a second one adds `kk` to that sum. -/
theorem addImmediateWraps : Obligations.AddImmediateWraps := by
  refine ⟨rowXKK decodeWord_family7 fun _ _ => rfl, fun x kk s => ?_⟩
  have hsum (t : State) :
      ((t.advance.writeV x (t.readV x + kk)).readV x).toNat = ((t.readV x).toNat + kk.toNat) % 256 := by
    rw [readV_writeV_self, BitVec.toNat_add]
  obtain ⟨hkeeps, hpc, honly⟩ := advance_writeV_frame s x (s.readV x + kk)
  refine ⟨_, exec_addVxByte x kk s, hsum s, hkeeps, hpc, honly, _, exec_addVxByte x kk _, ?_⟩
  rw [hsum, hsum]
  omega

/-! `8xy0` to `8xy3` -/

/-- Settles O24: `V[y]` is kept as another register, or is itself the one that receives its own value. -/
theorem moveRegister : Obligations.MoveRegister := by
  refine ⟨rowXYS decodeWord_ldVxVy fun _ _ => rfl, fun x y s => ?_⟩
  have hsource : (s.advance.writeV x (s.readV y)).readV y = s.readV y := by
    by_cases hxy : y = x
    · rw [hxy, readV_writeV_self]
    · rw [readV_writeV_ne hxy, State.advance_readV]
  exact ⟨_, exec_ldVxVy x y s, readV_writeV_self .., hsource, advance_writeV_frame ..⟩

/-- Settles O25: each bit of the written byte is the operation on the bits of the operands. -/
theorem logicOperations : Obligations.LogicOperations := by
  refine ⟨rowXYS decodeWord_orVxVy fun _ _ => rfl, rowXYS decodeWord_andVxVy fun _ _ => rfl,
    rowXYS decodeWord_xorVxVy fun _ _ => rfl, fun x y s =>
    ⟨⟨_, exec_orVxVy x y s, fun b => ?_, advance_writeV_frame ..⟩,
      ⟨_, exec_andVxVy x y s, fun b => ?_, advance_writeV_frame ..⟩,
      ⟨_, exec_xorVxVy x y s, fun b => ?_, advance_writeV_frame ..⟩⟩⟩
  · rw [readV_writeV_self, BitVec.getLsbD_or]
  · rw [readV_writeV_self, BitVec.getLsbD_and]
  · rw [readV_writeV_self, BitVec.getLsbD_xor]

/-! `8xy4` to `8xy6`, and `8xyE` -/

/-- Settles O26: the result is the sum of the words, the flag is the carry of the numbers. -/
theorem addSetsCarry : Obligations.AddSetsCarry := by
  refine ⟨rowXYS decodeWord_addVxVy fun _ _ => rfl, fun x y s =>
    ⟨_, exec_addVxVy x y s, fun hx => ?_, ?_, advance_writeResultAndFlag_frame ..⟩⟩
  · rw [readV_writeResultAndFlag_result hx, BitVec.toNat_add]
  · rw [readV_writeResultAndFlag_flag, flagByte_toNat_of_iff (carryOut_iff _ _)]

/-- Settles O27: the result is the difference of the words, the flag is the borrow of the numbers. -/
theorem subtractSetsBorrow : Obligations.SubtractSetsBorrow := by
  refine ⟨rowXYS decodeWord_subVxVy fun _ _ => rfl, fun x y s =>
    ⟨_, exec_subVxVy x y s, fun hx => ?_, ?_, advance_writeResultAndFlag_frame ..⟩⟩
  · rw [readV_writeResultAndFlag_result hx, sub_toNat]
  · rw [readV_writeResultAndFlag_flag, flagByte_toNat_of_iff (borrowOut_iff _ _)]

/-- Settles O28: a shift by one halves or doubles the number, and the flag is its lowest or highest bit. -/
theorem shiftsCaptureTheBit : Obligations.ShiftsCaptureTheBit := by
  refine ⟨rowXYS decodeWord_shrVxVy fun _ _ => rfl, rowXYS decodeWord_shlVxVy fun _ _ => rfl, fun x y s =>
    ⟨⟨_, exec_shrVxVy x y s, fun hx => ?_, ?_, advance_writeResultAndFlag_frame ..⟩,
      ⟨_, exec_shlVxVy x y s, fun hx => ?_, ?_, advance_writeResultAndFlag_frame ..⟩⟩⟩
  · rw [readV_writeResultAndFlag_result hx, shiftRight_one_toNat]
  · rw [readV_writeResultAndFlag_flag, shiftedOutRight_toNat]
  · rw [readV_writeResultAndFlag_result hx, shiftLeft_one_toNat]
  · rw [readV_writeResultAndFlag_flag, shiftedOutLeft_toNat]

end Sys2Proof.Alu

/-! The rows of format `XD8`, and the rows of the index and memory group in family 0xF of the decoder (R65, R66). -/

namespace Sys2Proof.OpcodeRows

open Sys2Proof.Claims

theorem rowXD8 {o : BitVec 4} {kk : Byte} {c : Reg → Instr}
    (hdecode : ∀ {op}, opclass op = o → imm8 op = kk → decodeWord op = c (regX op))
    (hencode : ∀ x, encode (c x) = formXKK o (regBits x) kk) : RowXD8 (formXKK o 0 kk) c := by
  intro op
  rw [and_F0FF_eq_iff]
  constructor
  · rintro ⟨ho, hkk⟩
    exact ⟨regX op, regX_val op, hdecode ho hkk⟩
  · rintro ⟨x, -, hop⟩
    rw [eq_encode_of_decodeWord hop, hencode, opclass_formXKK, imm8_formXKK]
    exact ⟨rfl, rfl⟩

section
variable {op : Word} (ho : opclass op = 0xF#4)
include ho

theorem decodeWord_ldFVx (hkk : imm8 op = 0x29#8) : decodeWord op = .ldFVx (regX op) := by
  simp [decodeWord_familyF ho, decodeFamilyF, hkk]

theorem decodeWord_ldBVx (hkk : imm8 op = 0x33#8) : decodeWord op = .ldBVx (regX op) := by
  simp [decodeWord_familyF ho, decodeFamilyF, hkk]

theorem decodeWord_ldMemVx (hkk : imm8 op = 0x55#8) : decodeWord op = .ldMemVx (regX op) := by
  simp [decodeWord_familyF ho, decodeFamilyF, hkk]

theorem decodeWord_ldVxMem (hkk : imm8 op = 0x65#8) : decodeWord op = .ldVxMem (regX op) := by
  simp [decodeWord_familyF ho, decodeFamilyF, hkk]

end

end Sys2Proof.OpcodeRows

/-! Index register and memory transfer: the statements about R120 to R124. -/

namespace Sys2Proof.IndexMemory

open Sys2Proof.Machine Sys2Proof.Claims Sys2Proof.OpcodeRows Sys2Proof.ControlTransfer

/-! `Annn` and `Fx29` -/

theorem advance_setI_frame (s : State) (w : Word) : PcPlus 2 s (s.advance.setI w) ∧ OnlyI s (s.advance.setI w) :=
  ⟨State.advance_pc_toNat s, rfl, fun _ => rfl⟩

/-- Settles O30: the answer is the advanced state with `I` overwritten. -/
theorem loadIndex : Obligations.LoadIndex :=
  ⟨rowNNN decodeWord_familyA fun _ => rfl, fun nnn s =>
    ⟨_, exec_ldIAddr nnn s, zextAddr_toNat nnn, advance_setI_frame ..⟩⟩

/-- Settles O31: five times a byte is below 65536, so the written word is the product itself. -/
theorem glyphAddressIsFiveTimes : Obligations.GlyphAddressIsFiveTimes :=
  ⟨rowXD8 decodeWord_ldFVx fun _ => rfl, fun x s =>
    ⟨_, exec_ldFVx x s, glyphAddress_toNat _, advance_setI_frame ..⟩⟩

/-! The range test of the transfers (R47, R125). -/

theorem rangeOk_succ_iff {base n : Nat} : rangeOk base (n + 1) = true ↔ base + n ≤ 4095 := by
  rw [rangeOk_iff]
  omega

/-- An instruction whose range test fails faults with MEM_RANGE and does nothing else. -/
theorem faultsWith_memRange {i : Instr} {n : Nat} {s s' : State}
    (hexec : exec i s = .next (if rangeOk s.i.toNat (n + 1) then s' else s.takeFault .memRange (encode i)))
    (hrange : 4095 < s.i.toNat + n) : FaultsWith 2 i s := by
  have hout : ¬ rangeOk s.i.toNat (n + 1) = true := mt rangeOk_succ_iff.mp (Nat.not_le.mpr hrange)
  rw [if_neg hout] at hexec
  exact faultsWith_of_exec_takeFault hexec

/-! A run of bytes stored in a canonical memory: the bytes read back, and the frame (R46, R122, R123). -/

theorem loadByte_storeBytes_of_getElem? {s : State} (hwf : Memory.wf s.mem = true) {base k : Nat} {bytes : List Byte}
    (hrange : base + bytes.length ≤ 4096) {b : Byte} (hk : bytes[k]? = some b) :
    (s.storeBytes base bytes).loadByte (base + k) = b := by
  rw [State.loadByte_storeBytes hwf hrange, if_pos (Nat.le_add_right base k), Nat.add_sub_cancel_left, hk,
    Option.getD_some]

theorem advance_storeBytes_frame {s : State} (hwf : Memory.wf s.mem = true) {base : Nat} {bytes : List Byte}
    (hrange : base + bytes.length ≤ 4096) :
    OnlyBytes base bytes.length s (s.advance.storeBytes base bytes) ∧ PcPlus 2 s (s.advance.storeBytes base bytes) ∧
      Memory.wf (s.advance.storeBytes base bytes).mem = true :=
  ⟨⟨rfl, fun _ ha => State.loadByte_storeBytes_outside (s := s.advance) hwf hrange ha⟩, State.advance_pc_toNat s,
    Memory.wf_writeBytes hwf hrange⟩

/-! `Fx33` -/

/-- The three digits that `Fx33` stores (R122). -/
def bcdDigits (b : Byte) : List Byte := [bcdHundreds b, bcdTens b, bcdOnes b]

theorem exec_ldBVx_of_range (x : Reg) {s : State} (h : s.i.toNat + 2 ≤ 4095) :
    exec (.ldBVx x) s = .next (s.advance.storeBytes s.i.toNat (bcdDigits (s.readV x))) := by
  rw [exec_ldBVx, if_pos (rangeOk_succ_iff.mpr h)]
  rfl

/-- Settles O32: in range the answer is the advanced state with the digits stored, out of range it is `takeFault`. -/
theorem storeDecimalDigits : Obligations.StoreDecimalDigits := by
  refine ⟨rowXD8 decodeWord_ldBVx fun _ => rfl, fun x s => ⟨fun hrange hwf => ?_, faultsWith_memRange (exec_ldBVx x s)⟩⟩
  have hfits : s.i.toNat + (bcdDigits (s.readV x)).length ≤ 4096 := Nat.succ_le_succ hrange
  have hdigit {k : Nat} {b : Byte} (hk : (bcdDigits (s.readV x))[k]? = some b) :
      (s.advance.storeBytes s.i.toNat (bcdDigits (s.readV x))).loadByte (s.i.toNat + k) = b :=
    loadByte_storeBytes_of_getElem? hwf hfits hk
  refine ⟨_, exec_ldBVx_of_range x hrange, ?_, ?_, ?_, advance_storeBytes_frame hwf hfits⟩
  · rw [← bcdHundreds_toNat, ← hdigit (k := 0) rfl, Nat.add_zero]
  · rw [← bcdTens_toNat, ← hdigit (k := 1) rfl]
  · rw [← bcdOnes_toNat, ← hdigit (k := 2) rfl]

/-! `Fx55` -/

theorem exec_ldMemVx_of_range (x : Reg) {s : State} (h : s.i.toNat + x.val ≤ 4095) :
    exec (.ldMemVx x) s = .next (s.advance.storeBytes s.i.toNat (s.firstRegs x)) := by
  rw [exec_ldMemVx, if_pos (rangeOk_succ_iff.mpr h)]

/-- Settles O33: in range the answer is the advanced state with `V[0..x]` stored, out of range it is `takeFault`. -/
theorem storeRegisters : Obligations.StoreRegisters := by
  refine ⟨rowXD8 decodeWord_ldMemVx fun _ => rfl, fun x s =>
    ⟨fun hrange hwf => ?_, faultsWith_memRange (exec_ldMemVx x s)⟩⟩
  have hfits : s.i.toNat + (s.firstRegs x).length ≤ 4096 := by
    rw [State.firstRegs_length]
    omega
  have hframe := advance_storeBytes_frame hwf hfits
  rw [State.firstRegs_length] at hframe
  exact ⟨_, exec_ldMemVx_of_range x hrange,
    fun k hk => loadByte_storeBytes_of_getElem? hwf hfits (State.firstRegs_getElem? s x k hk), hframe⟩

/-! `Fx65` -/

theorem exec_ldVxMem_of_range (x : Reg) {s : State} (h : s.i.toNat + x.val ≤ 4095) :
    exec (.ldVxMem x) s = .next (s.advance.loadRegs s.i.toNat (x.val + 1)) := by
  rw [exec_ldVxMem, if_pos (rangeOk_succ_iff.mpr h)]

theorem loadRegs_with_v (s : State) (base k : Nat) : { s.loadRegs base k with v := s.v } = s := by
  induction k with
  | zero => rfl
  | succ j ih => exact ih

theorem advance_loadRegs_onlyV (s : State) (base k : Nat) : OnlyV s (s.advance.loadRegs base k) := by
  have hregisters := loadRegs_with_v s.advance base k
  exact ⟨congrArg (State.setPc · s.pc) hregisters, State.loadRegs_loadByte s.advance base k⟩

/-- Settles O34: in range the answer is the advanced state with `V[0..x]` loaded, out of range it is `takeFault`. -/
theorem loadRegisters : Obligations.LoadRegisters := by
  refine ⟨rowXD8 decodeWord_ldVxMem fun _ => rfl, fun x s => ⟨fun hrange => ?_, faultsWith_memRange (exec_ldVxMem x s)⟩⟩
  have hread (r : Reg) : (s.advance.loadRegs s.i.toNat (x.val + 1)).readV r =
      if r.val < x.val + 1 then s.loadByte (s.i.toNat + r.val) else s.readV r :=
    State.loadRegs_readV s.advance s.i.toNat (x.val + 1) x.isLt r
  refine ⟨_, exec_ldVxMem_of_range x hrange, fun k hk => ?_, fun k hk => ?_, ?_, advance_loadRegs_onlyV ..⟩
  · rw [hread, if_pos (Nat.lt_succ_of_le hk)]
  · rw [hread, if_neg (Nat.not_lt.mpr hk)]
  · rw [PcPlus, State.loadRegs_pc, State.advance_pc_toNat]

end Sys2Proof.IndexMemory

/-! The rows of format `XYN`, and the row of `00E0` in the decoder (R65, R66). -/

namespace Sys2Proof.OpcodeRows

open Sys2Proof.Claims

theorem rowXYN {o : BitVec 4} {c : Reg → Reg → BitVec 4 → Instr}
    (hdecode : ∀ {op}, opclass op = o → decodeWord op = c (regX op) (regY op) (subop4 op))
    (hencode : ∀ x y n, encode (c x y n) = formXYN o (regBits x) (regBits y) n) : RowXYN (formNNN o 0) c := by
  intro op
  rw [and_F000_eq_iff]
  constructor
  · intro ho
    exact ⟨regX op, regY op, subop4 op, regX_val op, regY_val op, subop4_toNat op, hdecode ho⟩
  · rintro ⟨x, y, n, -, -, -, hop⟩
    rw [eq_encode_of_decodeWord hop, hencode, opclass_formXYN]

theorem decodeWord_cls {op : Word} (ho : opclass op = 0x0#4) (hE0 : imm8 op = 0xE0#8) :
    decodeWord op = .cls (bits11to8 op) := by
  simp [decodeWord_family0 ho, decodeFamily0, hE0]

end Sys2Proof.OpcodeRows

/-! Display: the statements about R130 and R132. -/

namespace Sys2Proof.Display

open Sys2Proof.Machine Sys2Proof.Claims Sys2Proof.OpcodeRows Sys2Proof.ControlTransfer Sys2Proof.Alu

/-! `00E0` -/

theorem advance_setFb_frame (s : State) (fb : Framebuffer) :
    PcPlus 2 s (s.advance.setFb fb) ∧ OnlyFb s (s.advance.setFb fb) :=
  ⟨State.advance_pc_toNat s, rfl, fun _ => rfl⟩

/-- Settles O37: the answer is the advanced state with the blank framebuffer. -/
theorem clearScreen : Obligations.ClearScreen :=
  ⟨rowD8 decodeWord_cls fun _ => rfl, fun ignored s =>
    ⟨_, exec_cls ignored s, fun px py => Framebuffer.pixel_blank px.val py.val, advance_setFb_frame ..⟩⟩

/-! The sprite's conditions, in the statement's numbers and in the compositor's terms (R131, R132). -/

/-- The target of a set bit of the sprite that `Dxyn` draws in `s`, as the compositor's `Covers` says it. -/
def SpriteTarget (s : State) (x y : Reg) (n : BitVec 4) (qx qy : Nat) : Prop :=
  Covers (fun r => s.loadByte (s.i.toNat + r)) (s.readV x) (s.readV y) n.toNat qx qy

theorem spriteBit_iff (row : Byte) (c : Nat) : spriteBit row c = true ↔ row.toNat / 2 ^ (7 - c) % 2 = 1 := by
  rw [spriteBit, BitVec.getLsbD, Nat.testBit_eq_decide_div_mod_eq, decide_eq_true_eq]

theorem spriteTarget_iff {s : State} {x y : Reg} {n : BitVec 4} {qx qy : Nat} : SpriteTarget s x y n qx qy ↔
    ∃ r c, SpriteBitSet s n r c ∧ qx = (s.readV x).toNat + c ∧ qy = (s.readV y).toNat + r := by
  constructor
  · rintro ⟨r, hr, c, hc, hbit, hx, hy⟩
    exact ⟨r, c, ⟨hr, hc, (spriteBit_iff _ c).mp hbit⟩, hx, hy⟩
  · rintro ⟨r, c, ⟨hr, hc, hbit⟩, hx, hy⟩
    exact ⟨r, hr, c, hc, (spriteBit_iff _ c).mpr hbit, hx, hy⟩

theorem spriteCovers_iff {s : State} {x y : Reg} {n : BitVec 4} {px : Fin 64} {py : Fin 32} :
    SpriteCovers s x y n px py ↔ SpriteTarget s x y n px.val py.val :=
  spriteTarget_iff.symm

theorem rangeOk_iff_spriteInMemory {s : State} {n : BitVec 4} :
    rangeOk s.i.toNat n.toNat = true ↔ SpriteInMemory s n := by
  rw [rangeOk_iff, SpriteInMemory]
  omega

theorem spriteInGrid_iff {s : State} {x y : Reg} {n : BitVec 4} :
    SpriteInGrid s x y n ↔ ∀ qx qy, SpriteTarget s x y n qx qy → inGrid qx qy = true := by
  constructor
  · intro hgrid qx qy htarget
    obtain ⟨r, c, hset, rfl, rfl⟩ := spriteTarget_iff.mp htarget
    obtain ⟨hx, hy⟩ := hgrid r c hset
    exact inGrid_iff.mpr ⟨Nat.lt_succ_of_le hx, Nat.lt_succ_of_le hy⟩
  · intro hgrid r c hset
    obtain ⟨hx, hy⟩ := inGrid_iff.mp (hgrid _ _ (spriteTarget_iff.mpr ⟨r, c, hset, rfl, rfl⟩))
    exact ⟨Nat.le_of_lt_succ hx, Nat.le_of_lt_succ hy⟩

/-- With every set bit in the grid, a collision at some target is one at some covered pixel of the grid. -/
theorem exists_collision_iff {s : State} {x y : Reg} {n : BitVec 4} (hgrid : SpriteInGrid s x y n) :
    (∃ qx qy, SpriteTarget s x y n qx qy ∧ s.fb.pixel qx qy = true) ↔
      ∃ px py, SpriteCovers s x y n px py ∧ s.pixelRead px py = true := by
  constructor
  · rintro ⟨qx, qy, htarget, hpixel⟩
    obtain ⟨hx, hy⟩ := inGrid_iff.mp (spriteInGrid_iff.mp hgrid qx qy htarget)
    exact ⟨⟨qx, hx⟩, ⟨qy, hy⟩, spriteCovers_iff.mpr htarget, hpixel⟩
  · rintro ⟨px, py, hcovers, hpixel⟩
    exact ⟨px.val, py.val, spriteCovers_iff.mp hcovers, hpixel⟩

/-! `Dxyn` -/

/-- The state after a draw whose canvas is `cv`: the copy and the collision bit written, `PC` moved on. -/
def drawn (s : State) (cv : Canvas) : State := (s.advance.setFb cv.fb).writeV flagReg (flagByte cv.coll)

theorem drawn_frame (s : State) (cv : Canvas) :
    KeepsVBut 0xF s (drawn s cv) ∧ PcPlus 2 s (drawn s cv) ∧ OnlyFbAndV s (drawn s cv) :=
  ⟨fun _ hr => readV_writeV_ne hr (s.advance.setFb cv.fb) _, State.advance_pc_toNat s, rfl, fun _ => rfl⟩

theorem drawn_flag_toNat (s : State) (cv : Canvas) : ((drawn s cv).readV 0xF).toNat = if cv.coll then 1 else 0 := by
  rw [← flagByte_toNat]
  exact congrArg BitVec.toNat (readV_writeV_self _ flagReg _)

/-- A sprite in memory and in the grid is drawn: each covered pixel is turned over and no other, and the collision bit says
whether a covered pixel was 1. -/
theorem exec_drwVxVyN_drawn {x y : Reg} {n : BitVec 4} {s : State} (hmem : SpriteInMemory s n)
    (hgrid : SpriteInGrid s x y n) : ∃ cv, exec (.drwVxVyN x y n) s = .next (drawn s cv) ∧
      (∀ px py, (drawn s cv).pixelRead px py = true ↔ ¬ (s.pixelRead px py = true ↔ SpriteCovers s x y n px py)) ∧
      (cv.coll = true ↔ ∃ px py, SpriteCovers s x y n px py ∧ s.pixelRead px py = true) := by
  obtain ⟨cv, hdraw, hpixels, hcoll⟩ := drawRows_spec _ _ _ ⟨s.fb, false⟩ _ (spriteInGrid_iff.mp hgrid)
  refine ⟨cv, exec_drwVxVyN_ok (rangeOk_iff_spriteInMemory.mpr hmem) hdraw, fun px py => ?_, ?_⟩
  · rw [spriteCovers_iff, ← xor_iff_not_iff, xor_iff_iff_not]
    exact hpixels px.val py.val
  · rw [← exists_collision_iff hgrid, hcoll]
    exact or_iff_right Bool.false_ne_true

theorem exec_drwVxVyN_outsideMemory {x y : Reg} {n : BitVec 4} {s : State} (hmem : ¬ SpriteInMemory s n) :
    exec (.drwVxVyN x y n) s = .next (s.takeFault .memRange (encode (.drwVxVyN x y n))) :=
  exec_drwVxVyN_memRange (Bool.eq_false_iff.mpr (mt rangeOk_iff_spriteInMemory.mp hmem))

theorem exec_drwVxVyN_outsideGrid {x y : Reg} {n : BitVec 4} {s : State} (hmem : SpriteInMemory s n)
    (hgrid : ¬ SpriteInGrid s x y n) :
    exec (.drwVxVyN x y n) s = .next (s.takeFault .fbRange (encode (.drwVxVyN x y n))) := by
  rcases drawRows_cases _ _ _ _ _ with ⟨_, -, hall⟩ | ⟨hfault, -⟩
  · exact absurd (spriteInGrid_iff.mpr hall) hgrid
  · exact exec_drwVxVyN_fbRange (rangeOk_iff_spriteInMemory.mpr hmem) hfault

/-- Settles O38: in memory and in the grid the answer is the drawn state, else it is `takeFault`, the memory tested first. -/
theorem drawSprite : Obligations.DrawSprite := by
  refine ⟨rowXYN decodeWord_familyD fun _ _ _ => rfl, fun x y n s => ⟨fun hmem hgrid => ?_,
    fun hmem => faultsWith_of_exec_takeFault (exec_drwVxVyN_outsideMemory hmem),
    fun hmem hgrid => faultsWith_of_exec_takeFault (exec_drwVxVyN_outsideGrid hmem hgrid)⟩⟩
  obtain ⟨cv, hexec, hpixels, hcoll⟩ := exec_drwVxVyN_drawn hmem hgrid
  refine ⟨_, hexec, hpixels, ?_, drawn_frame s cv⟩
  rw [← hcoll, drawn_flag_toNat]
  cases cv.coll with
  | true => exact .inl ⟨rfl, rfl⟩
  | false => exact .inr ⟨Bool.false_ne_true, rfl⟩

end Sys2Proof.Display

/-! The rows of the key and timer group in families 0xE and 0xF of the decoder (R65, R66). -/

namespace Sys2Proof.OpcodeRows

theorem decodeWord_skpVx {op : Word} (ho : opclass op = 0xE#4) (hkk : imm8 op = 0x9E#8) :
    decodeWord op = .skpVx (regX op) := by
  simp [decodeWord_familyE ho, decodeFamilyE, hkk]

theorem decodeWord_sknpVx {op : Word} (ho : opclass op = 0xE#4) (hkk : imm8 op = 0xA1#8) :
    decodeWord op = .sknpVx (regX op) := by
  simp [decodeWord_familyE ho, decodeFamilyE, hkk]

theorem decodeWord_ldVxDt {op : Word} (ho : opclass op = 0xF#4) (hkk : imm8 op = 0x07#8) :
    decodeWord op = .ldVxDt (regX op) := by
  simp [decodeWord_familyF ho, decodeFamilyF, hkk]

theorem decodeWord_ldDtVx {op : Word} (ho : opclass op = 0xF#4) (hkk : imm8 op = 0x15#8) :
    decodeWord op = .ldDtVx (regX op) := by
  simp [decodeWord_familyF ho, decodeFamilyF, hkk]

theorem decodeWord_ldStVx {op : Word} (ho : opclass op = 0xF#4) (hkk : imm8 op = 0x18#8) :
    decodeWord op = .ldStVx (regX op) := by
  simp [decodeWord_familyF ho, decodeFamilyF, hkk]

end Sys2Proof.OpcodeRows

/-! Keys and timers: the statements about R140 to R144. -/

namespace Sys2Proof.KeysTimers

open Sys2Proof.Machine Sys2Proof.Claims Sys2Proof.OpcodeRows Sys2Proof.ControlTransfer

/-! `Ex9E` and `ExA1` -/

section
variable (x : Reg) {s : State}

theorem exec_skpVx_of_key (h : (s.readV x).toNat < 16) :
    exec (.skpVx x) s = .next (s.advance.skipIf s.keys[(s.readV x).toNat]) := by
  rw [exec_skpVx, dif_pos h]

theorem exec_sknpVx_of_key (h : (s.readV x).toNat < 16) :
    exec (.sknpVx x) s = .next (s.advance.skipIf (!s.keys[(s.readV x).toNat])) := by
  rw [exec_sknpVx, dif_pos h]

theorem exec_skpVx_of_no_key (h : ¬ (s.readV x).toNat < 16) :
    exec (.skpVx x) s = .next (s.takeFault .keyRange (encode (.skpVx x))) := by
  rw [exec_skpVx, dif_neg h]

theorem exec_sknpVx_of_no_key (h : ¬ (s.readV x).toNat < 16) :
    exec (.sknpVx x) s = .next (s.takeFault .keyRange (encode (.sknpVx x))) := by
  rw [exec_sknpVx, dif_neg h]

end

/-- Settles O40: at most 15 the skip's condition is the key's state or its complement, above 15 the answer is `takeFault`. -/
theorem keySkips : Obligations.KeySkips := by
  refine ⟨rowXD8 decodeWord_skpVx fun _ => rfl, rowXD8 decodeWord_sknpVx fun _ => rfl, fun x s =>
    ⟨fun hle => ?_, fun hgt => ?_⟩⟩
  · have hkey : (s.readV x).toNat < 16 := Nat.lt_succ_of_le hle
    simp only [Vector.getElem?_eq_getElem hkey, Option.some_inj]
    refine ⟨⟨_, exec_skpVx_of_key x hkey, ?_, advance_skipIf_onlyPc ..⟩,
      ⟨_, exec_sknpVx_of_key x hkey, ?_, advance_skipIf_onlyPc ..⟩⟩
    · split_ifs with hpressed
      · exact advance_skipIf_pcPlus_four hpressed
      · exact advance_skipIf_pcPlus_two (Bool.eq_false_iff.mpr hpressed)
    · split_ifs with hpressed
      · exact advance_skipIf_pcPlus_two (congrArg not hpressed)
      · exact advance_skipIf_pcPlus_four (congrArg not (Bool.eq_false_iff.mpr hpressed))
  · have hnokey : ¬ (s.readV x).toNat < 16 := Nat.not_lt_of_le hgt
    exact ⟨faultsWith_of_exec_takeFault (exec_skpVx_of_no_key x hnokey),
      faultsWith_of_exec_takeFault (exec_sknpVx_of_no_key x hnokey)⟩

/-! `Fx07`, `Fx15` and `Fx18` -/

theorem advance_setDt_frame (s : State) (b : Byte) : PcPlus 2 s (s.advance.setDt b) ∧ OnlyDt s (s.advance.setDt b) :=
  ⟨State.advance_pc_toNat s, rfl, fun _ => rfl⟩

theorem advance_setSt_frame (s : State) (b : Byte) : PcPlus 2 s (s.advance.setSt b) ∧ OnlySt s (s.advance.setSt b) :=
  ⟨State.advance_pc_toNat s, rfl, fun _ => rfl⟩

/-- The sound output follows the value written to `ST` at once (R144, R172). -/
theorem soundActive_setSt_iff (s : State) (b : Byte) : (s.setSt b).soundActive = true ↔ 1 ≤ b.toNat :=
  decide_eq_true_iff

/-- Settles O41: each answer is the advanced state with `V[x]`, `DT` or `ST` overwritten. -/
theorem timerAccess : Obligations.TimerAccess :=
  ⟨rowXD8 decodeWord_ldVxDt fun _ => rfl, rowXD8 decodeWord_ldDtVx fun _ => rfl, rowXD8 decodeWord_ldStVx fun _ => rfl,
    fun x s =>
    ⟨⟨_, exec_ldVxDt x s, Alu.readV_writeV_self .., Alu.advance_writeV_frame ..⟩,
      ⟨_, exec_ldDtVx x s, State.setDt_dt .., advance_setDt_frame ..⟩,
      ⟨_, exec_ldStVx x s, State.setSt_st .., soundActive_setSt_iff .., advance_setSt_frame ..⟩⟩⟩

end Sys2Proof.KeysTimers

/-! Unlisted words: the regions of R67, and the no-op of R150. -/

namespace Sys2Proof.UnlistedWords

open Sys2Proof.Machine Sys2Proof.Claims

/-! The families that have listed rows: the decoder falls through when the discriminator is none of theirs (R65). -/

theorem isUnlisted_decodeFamily0 (op : Word) :
    (decodeFamily0 op).isUnlisted = true ↔ imm8 op ∉ [0xE0#8, 0xEE#8] := by
  unfold decodeFamily0
  split_ifs with hE0 hEE
  · simp [Instr.isUnlisted, hE0]
  · simp [Instr.isUnlisted, hEE]
  · simp [Instr.isUnlisted, hE0, hEE]

theorem isUnlisted_decodeFamily8 (op : Word) : (decodeFamily8 op).isUnlisted = true ↔
    subop4 op ∉ [0x0#4, 0x1#4, 0x2#4, 0x3#4, 0x4#4, 0x5#4, 0x6#4, 0xE#4] := by
  unfold decodeFamily8
  split_ifs with h0 h1 h2 h3 h4 h5 h6 hE
  · simp [Instr.isUnlisted, h0]
  · simp [Instr.isUnlisted, h1]
  · simp [Instr.isUnlisted, h2]
  · simp [Instr.isUnlisted, h3]
  · simp [Instr.isUnlisted, h4]
  · simp [Instr.isUnlisted, h5]
  · simp [Instr.isUnlisted, h6]
  · simp [Instr.isUnlisted, hE]
  · simp [Instr.isUnlisted, h0, h1, h2, h3, h4, h5, h6, hE]

theorem isUnlisted_decodeFamilyE (op : Word) :
    (decodeFamilyE op).isUnlisted = true ↔ imm8 op ∉ [0x9E#8, 0xA1#8] := by
  unfold decodeFamilyE
  split_ifs with h9E hA1
  · simp [Instr.isUnlisted, h9E]
  · simp [Instr.isUnlisted, hA1]
  · simp [Instr.isUnlisted, h9E, hA1]

theorem isUnlisted_decodeFamilyF (op : Word) : (decodeFamilyF op).isUnlisted = true ↔
    imm8 op ∉ [0x07#8, 0x15#8, 0x18#8, 0x29#8, 0x33#8, 0x55#8, 0x65#8] := by
  unfold decodeFamilyF
  split_ifs with h07 h15 h18 h29 h33 h55 h65
  · simp [Instr.isUnlisted, h07]
  · simp [Instr.isUnlisted, h15]
  · simp [Instr.isUnlisted, h18]
  · simp [Instr.isUnlisted, h29]
  · simp [Instr.isUnlisted, h33]
  · simp [Instr.isUnlisted, h55]
  · simp [Instr.isUnlisted, h65]
  · simp [Instr.isUnlisted, h07, h15, h18, h29, h33, h55, h65]

/-! The regions of R67, from the word's number to its fields. -/

theorem toNat_mem_map_iff {w : Nat} {b : BitVec w} {l : List (BitVec w)} : b.toNat ∈ l.map BitVec.toNat ↔ b ∈ l :=
  List.mem_map_of_injective BitVec.toNat_injective

/-- R67 lists the values of `subop4` that are left over in family 0x8, where the decoder tests for the others. -/
theorem unlistedSubop_iff (n : BitVec 4) : n.toNat ∈ [0x7, 0x8, 0x9, 0xA, 0xB, 0xC, 0xD, 0xF] ↔
    n ∉ [0x0#4, 0x1#4, 0x2#4, 0x3#4, 0x4#4, 0x5#4, 0x6#4, 0xE#4] := by
  revert n
  decide

theorem unlistedNumber_toNat_iff (op : Word) : UnlistedNumber op.toNat ↔
    (opclass op = 0x0#4 ∧ imm8 op ∉ [0xE0#8, 0xEE#8]) ∨ opclass op = 0x5#4 ∨
      (opclass op = 0x8#4 ∧ subop4 op ∉ [0x0#4, 0x1#4, 0x2#4, 0x3#4, 0x4#4, 0x5#4, 0x6#4, 0xE#4]) ∨
      opclass op = 0x9#4 ∨ opclass op = 0xB#4 ∨ (opclass op = 0xE#4 ∧ imm8 op ∉ [0x9E#8, 0xA1#8]) ∨
      (opclass op = 0xF#4 ∧ imm8 op ∉ [0x07#8, 0x15#8, 0x18#8, 0x29#8, 0x33#8, 0x55#8, 0x65#8]) := by
  simp only [← unlistedSubop_iff, ← toNat_mem_map_iff (b := imm8 op), ← BitVec.toNat_inj (x := opclass op),
    opclass_toNat, subop4_toNat, imm8_toNat]
  rfl

/-- A word lies in a region of R67 exactly when the decoder finds no row for it. -/
theorem unlistedNumber_iff_isUnlisted_decodeWord (op : Word) :
    UnlistedNumber op.toNat ↔ (decodeWord op).isUnlisted = true := by
  rw [unlistedNumber_toNat_iff]
  rcases opclass_cases op with ho | ho | ho | ho | ho | ho | ho | ho | ho | ho | ho | ho | ho | ho | ho | ho
  · simp [decodeWord_family0 ho, ho, isUnlisted_decodeFamily0]
  · simp [decodeWord_family1 ho, ho, Instr.isUnlisted]
  · simp [decodeWord_family2 ho, ho, Instr.isUnlisted]
  · simp [decodeWord_family3 ho, ho, Instr.isUnlisted]
  · simp [decodeWord_family4 ho, ho, Instr.isUnlisted]
  · simp [decodeWord_family5 ho, ho, Instr.isUnlisted]
  · simp [decodeWord_family6 ho, ho, Instr.isUnlisted]
  · simp [decodeWord_family7 ho, ho, Instr.isUnlisted]
  · simp [decodeWord_family8 ho, ho, isUnlisted_decodeFamily8]
  · simp [decodeWord_family9 ho, ho, Instr.isUnlisted]
  · simp [decodeWord_familyA ho, ho, Instr.isUnlisted]
  · simp [decodeWord_familyB ho, ho, Instr.isUnlisted]
  · simp [decodeWord_familyC ho, ho, Instr.isUnlisted]
  · simp [decodeWord_familyD ho, ho, Instr.isUnlisted]
  · simp [decodeWord_familyE ho, ho, isUnlisted_decodeFamilyE]
  · simp [decodeWord_familyF ho, ho, isUnlisted_decodeFamilyF]

/-- Every unlisted instruction answers with the frame's advance alone (R150). -/
theorem exec_of_isUnlisted {i : Instr} (h : i.isUnlisted = true) (s : State) : exec i s = .next s.advance := by
  cases i with
  | unlisted0 ignored => exact exec_unlisted0 ignored s
  | unlisted5 ignored => exact exec_unlisted5 ignored s
  | unlisted8 ignored => exact exec_unlisted8 ignored s
  | unlisted9 ignored => exact exec_unlisted9 ignored s
  | unlistedB ignored => exact exec_unlistedB ignored s
  | unlistedE ignored => exact exec_unlistedE ignored s
  | unlistedF ignored => exact exec_unlistedF ignored s
  | _ => exact absurd h Bool.false_ne_true

theorem advance_frame (s : State) : PcPlus 2 s s.advance ∧ OnlyPc s s.advance :=
  ⟨State.advance_pc_toNat s, rfl, State.advance_loadByte s⟩

/-- Settles O4: the decoder falls through exactly on the regions, and the answer of what it then gives is the advanced state. -/
theorem unlistedWordsAreNoOps : Obligations.UnlistedWordsAreNoOps :=
  ⟨unlistedNumber_iff_isUnlisted_decodeWord, fun _ s h => ⟨_, exec_of_isUnlisted h s, advance_frame s⟩⟩

end Sys2Proof.UnlistedWords

/-! The events of the host: the statements about R171 and R182 to R186. -/

namespace Sys2Proof.HostEvents

open Sys2Proof.Machine Sys2Proof.Claims

/-! STEP and TICK that find their enabling condition false (R80, R171). -/

theorem stepEvent_of_run_false {s : State} (h : s.run = false) : stepEvent s = .next s :=
  stepEvent_disabled (Bool.eq_false_iff.mpr fun he => Bool.false_ne_true (h.symm.trans (State.stepEnabled_iff.mp he).1))

theorem stepEvent_of_fault {s : State} (h : s.fault ≠ 0) : stepEvent s = .next s :=
  stepEvent_disabled (Bool.eq_false_iff.mpr fun he => h (State.stepEnabled_iff.mp he).2)

theorem tickEvent_of_run_false {s : State} (h : s.run = false) : tickEvent s = s := by
  simp [tickEvent, h]

/-! LOAD (R184): its three answers. -/

section
variable {base : Nat} {bytes : List Byte} {s : State}

theorem loadStatus_of_started (h : s.started = true) : loadStatus base bytes s = .loadRefused := if_pos h

theorem loadStatus_of_overflow (h : s.started = false) (hover : 4096 < base + bytes.length) :
    loadStatus base bytes s = .loadOverflow := by
  rw [loadStatus, if_neg (Bool.eq_false_iff.mp h)]
  exact if_pos hover

theorem loadStatus_of_fits (h : s.started = false) (hfits : base + bytes.length ≤ 4096) :
    loadStatus base bytes s = .ok := by
  rw [loadStatus, if_neg (Bool.eq_false_iff.mp h)]
  exact if_neg (Nat.not_lt.mpr hfits)

theorem loadEvent_of_started (h : s.started = true) : loadEvent base bytes s = s := by
  simp only [loadEvent, loadStatus_of_started h]

theorem loadEvent_of_overflow (h : s.started = false) (hover : 4096 < base + bytes.length) :
    loadEvent base bytes s = s := by
  simp only [loadEvent, loadStatus_of_overflow h hover]

theorem loadEvent_of_fits (h : s.started = false) (hfits : base + bytes.length ≤ 4096) :
    loadEvent base bytes s = s.storeBytes base bytes := by
  simp only [loadEvent, loadStatus_of_fits h hfits]

end

/-- A started block refuses every LOAD (R182, R184). -/
theorem load_refused {s : State} (h : s.started = true) (base : Fin 4097) (bytes : List Byte) :
    applyEvent (.load base bytes) s = .next s ∧ loadStatus base.val bytes s = .loadRefused :=
  ⟨congrArg Host.Outcome.next (loadEvent_of_started h), loadStatus_of_started h⟩

/-- Settles O14: refused and overflowing the answer is the state itself, else it is the state with the bytes stored. -/
theorem loadIsAllOrNothing : Obligations.LoadIsAllOrNothing := by
  intro base bytes s
  refine ⟨fun hstarted => load_refused hstarted base bytes, fun hstarted hover => ?_, fun hstarted hfits hwf => ?_⟩
  · exact ⟨congrArg Host.Outcome.next (loadEvent_of_overflow hstarted hover), loadStatus_of_overflow hstarted hover⟩
  · exact ⟨_, congrArg Host.Outcome.next (loadEvent_of_fits hstarted hfits), loadStatus_of_fits hstarted hfits,
      fun _ hk => IndexMemory.loadByte_storeBytes_of_getElem? hwf hfits (List.getElem?_eq_getElem hk),
      fun _ ha => State.loadByte_storeBytes_outside hwf hfits ha, rfl, Memory.wf_writeBytes hwf hfits⟩

/-! START, STOP and SETKEY (R182, R183, R186). -/

/-- START of a started block sets `RUN` and nothing else. -/
theorem startEvent_of_started {s : State} (h : s.started = true) : startEvent s = { s with run := true } := by
  rw [startEvent, ← h]

theorem startEvent_of_running {s : State} (hrun : s.run = true) (hstarted : s.started = true) : startEvent s = s := by
  rw [startEvent_of_started hstarted, ← hrun]

theorem setKeyEvent_key_self (index : Fin 16) (pressed : Bool) (s : State) :
    (setKeyEvent index pressed s).keys[index.val] = pressed :=
  Vector.getElem_set_self index.isLt

theorem setKeyEvent_key_ne {index k : Fin 16} (h : k ≠ index) (pressed : Bool) (s : State) :
    (setKeyEvent index pressed s).keys[k.val] = s.keys[k.val] :=
  Vector.getElem_set_ne index.isLt k.isLt (Fin.val_ne_of_ne h.symm)

/-- Settles O15: each answer is the state with its one or two fields overwritten, which gives or takes away what enables
LOAD, STEP and TICK. -/
theorem startStopSetKey : Obligations.StartStopSetKey := by
  intro s
  refine ⟨⟨startEvent s, rfl, rfl, rfl, rfl, fun _ => rfl, startEvent_of_running, fun hfault => ?_, ?_⟩,
    ⟨stopEvent s, rfl, rfl, rfl, fun _ => rfl, ?_, ?_⟩, fun index pressed => ?_⟩
  · exact stepEvent_of_fault (s := startEvent s) hfault
  · exact load_refused (s := startEvent s) rfl
  · exact stepEvent_of_run_false (s := stopEvent s) rfl
  · exact congrArg Host.Outcome.next (tickEvent_of_run_false (s := stopEvent s) rfl)
  · exact ⟨_, rfl, setKeyEvent_key_self index pressed s, fun _ hk => setKeyEvent_key_ne hk pressed s, rfl, fun _ => rfl⟩

/-! TICK (R171). -/

theorem countDown_toNat (b : Byte) : (countDown b).toNat = b.toNat - 1 := by
  unfold countDown
  split_ifs with hzero
  · rw [hzero]
    rfl
  · have hpos : 1#8 ≤ b := by bv_omega
    exact BitVec.toNat_sub_of_le hpos

/-- The state after a TICK that is enabled. -/
def ticked (s : State) : State := { s with dt := countDown s.dt, st := countDown s.st }

theorem tickEvent_of_run {s : State} (h : s.run = true) : tickEvent s = ticked s := if_pos h

/-- The sound output of a TICK follows the lowered `ST` (R172). -/
theorem soundActive_ticked_iff (s : State) : (ticked s).soundActive = true ↔ 1 < s.st.toNat := by
  have hst : (ticked s).st.toNat = s.st.toNat - 1 := countDown_toNat s.st
  rw [State.soundActive, decide_eq_true_eq, hst, Nat.sub_pos_iff_lt]

/-- Settles O16: running, the answer is the state with both timers counted down, else the state itself. -/
theorem tickCountsDown : Obligations.TickCountsDown := fun s =>
  ⟨fun hrun => ⟨ticked s, congrArg Host.Outcome.next (tickEvent_of_run hrun), countDown_toNat s.dt, countDown_toNat s.st,
      soundActive_ticked_iff s, rfl, fun _ => rfl⟩,
    fun hstopped => congrArg Host.Outcome.next (tickEvent_of_run_false hstopped)⟩

end Sys2Proof.HostEvents

/-! Faults: the statements about R161 to R167. -/

namespace Sys2Proof.Faults

open Sys2Proof.Machine Sys2Proof.Claims Sys2Proof.StepCycle Sys2Proof.ControlTransfer Sys2Proof.IndexMemory Sys2Proof.Display
  Sys2Proof.KeysTimers Sys2Proof.HostEvents

/-! The condition of a fault in the execute stage, and the fault it gives (R162, R164). -/

/-- Each row of R162: where its condition holds, the instruction faults with its code. -/
theorem faultsWith_of_executeFault {i : Instr} {s : State} {code : Nat} (h : ExecuteFault i s code) :
    FaultsWith code i s := by
  rcases h with ⟨ignored, rfl, hempty, rfl⟩ | ⟨nnn, rfl, hfull, rfl⟩ | ⟨x, y, n, rfl, hmem, rfl⟩ |
    ⟨x, y, n, rfl, hmem, hgrid, rfl⟩ | ⟨x, rfl, hrange, rfl⟩ | ⟨x, rfl | rfl, hrange, rfl⟩ | ⟨x, rfl | rfl, hkey, rfl⟩
  · exact faultsWith_of_exec_takeFault (exec_ret_of_empty ignored hempty)
  · exact faultsWith_of_exec_takeFault (exec_callAddr_of_full nnn hfull)
  · exact faultsWith_of_exec_takeFault (exec_drwVxVyN_outsideMemory hmem)
  · exact faultsWith_of_exec_takeFault (exec_drwVxVyN_outsideGrid hmem hgrid)
  · exact faultsWith_memRange (exec_ldBVx x s) hrange
  · exact faultsWith_memRange (exec_ldMemVx x s) hrange
  · exact faultsWith_memRange (exec_ldVxMem x s) hrange
  · exact faultsWith_of_exec_takeFault (exec_skpVx_of_no_key x (Nat.not_lt_of_le hkey))
  · exact faultsWith_of_exec_takeFault (exec_sknpVx_of_no_key x (Nat.not_lt_of_le hkey))

/-- An instruction that meets no condition of R162 leaves `FAULT` as it is. -/
theorem exec_keeps_fault {i : Instr} {s : State} (hnone : ∀ code, ¬ ExecuteFault i s code) :
    ∃ t, exec i s = .next t ∧ t.fault = s.fault := by
  cases i with
  | ret ignored =>
    have hpos : s.sp.val ≠ 0 := fun h => hnone 3 (by simp [ExecuteFault, h])
    exact ⟨_, exec_ret_of_pos ignored hpos, rfl⟩
  | callAddr nnn =>
    have hroom : s.sp.val ≠ 16 := fun h => hnone 4 (by simp [ExecuteFault, h])
    exact ⟨_, exec_callAddr_of_lt nnn (Nat.lt_of_le_of_ne (Nat.le_of_lt_succ s.sp.isLt) hroom), rfl⟩
  | drwVxVyN x y n =>
    have hmem : SpriteInMemory s n := of_not_not fun h => hnone 2 (by simp [ExecuteFault, h])
    have hgrid : SpriteInGrid s x y n := of_not_not fun h => hnone 5 (by simp [ExecuteFault, hmem, h])
    obtain ⟨cv, hexec, -⟩ := exec_drwVxVyN_drawn hmem hgrid
    exact ⟨_, hexec, rfl⟩
  | ldBVx x =>
    have hrange : ¬ 4095 < s.i.toNat + 2 := fun h => hnone 2 (by simp [ExecuteFault, h])
    exact ⟨_, exec_ldBVx_of_range x (Nat.le_of_not_lt hrange), rfl⟩
  | ldMemVx x =>
    have hrange : ¬ 4095 < s.i.toNat + x.val := fun h => hnone 2 (by simp [ExecuteFault, h])
    exact ⟨_, exec_ldMemVx_of_range x (Nat.le_of_not_lt hrange), rfl⟩
  | ldVxMem x =>
    have hrange : ¬ 4095 < s.i.toNat + x.val := fun h => hnone 2 (by simp [ExecuteFault, h])
    exact ⟨_, exec_ldVxMem_of_range x (Nat.le_of_not_lt hrange), State.loadRegs_fault ..⟩
  | skpVx x =>
    have hkey : ¬ 15 < (s.readV x).toNat := fun h => hnone 6 (by simp [ExecuteFault, h])
    exact ⟨_, exec_skpVx_of_key x (Nat.lt_succ_of_le (Nat.le_of_not_lt hkey)), State.skipIf_fault ..⟩
  | sknpVx x =>
    have hkey : ¬ 15 < (s.readV x).toNat := fun h => hnone 6 (by simp [ExecuteFault, h])
    exact ⟨_, exec_sknpVx_of_key x (Nat.lt_succ_of_le (Nat.le_of_not_lt hkey)), State.skipIf_fault ..⟩
  | seVxByte x kk => exact ⟨_, exec_seVxByte x kk s, State.skipIf_fault ..⟩
  | sneVxByte x kk => exact ⟨_, exec_sneVxByte x kk s, State.skipIf_fault ..⟩
  | _ => exact ⟨_, rfl, rfl⟩

/-- From a state without a fault an instruction records the code whose condition holds, and no other. -/
theorem exec_fault_iff {i : Instr} {s t : State} {code : Nat} (hclear : s.fault = 0) (hexec : exec i s = .next t)
    (hcode : code ≠ 0) : t.fault.toNat = code ↔ ExecuteFault i s code := by
  have hrecorded {c : Nat} (hc : ExecuteFault i s c) : t.fault.toNat = c := by
    obtain ⟨u, hu, hfault, -⟩ := faultsWith_of_executeFault hc
    cases hexec.symm.trans hu
    exact hfault
  refine ⟨fun ht => ?_, hrecorded⟩
  by_cases hany : ∃ c, ExecuteFault i s c
  · obtain ⟨c, hc⟩ := hany
    rwa [← ht, hrecorded hc]
  · obtain ⟨u, hu, hkept⟩ := exec_keeps_fault (not_exists.mp hany)
    cases hexec.symm.trans hu
    rw [hkept, hclear] at ht
    exact absurd ht.symm hcode

/-- Settles O10: above 0xFFE the answer is the fetch fault, in range it is that of the instruction at `PC`. -/
theorem faultExactlyWhen : Obligations.FaultExactlyWhen := by
  intro s t hrun hclear hstep code hcode
  have henabled : s.stepEnabled = true := State.stepEnabled_iff.mpr ⟨hrun, hclear⟩
  rcases Nat.lt_or_ge 0xFFE s.pc.toNat with hpc | hpc
  · rw [stepEvent_of_pc_gt henabled hpc] at hstep
    cases hstep
    simp only [hpc, Nat.not_le_of_lt hpc, true_and, false_and, or_false]
    exact eq_comm
  · rw [stepEvent_fetched henabled (State.fetch_of_le hpc)] at hstep
    simp only [hpc, Nat.not_lt_of_le hpc, true_and, false_and, false_or]
    exact exec_fault_iff hclear hstep hcode

/-! Where a fault comes from (R85, R161). -/

/-- STEP leaves `FAULT` as it is, or takes a fault of the fetch or of the instruction at `PC` and does nothing else. -/
theorem stepEvent_fault_cases {s t : State} (h : stepEvent s = .next t) :
    t.fault = s.fault ∨ (0xFFE < s.pc.toNat ∧ t = s.takeFault .fetchRange 0x0000) ∨
      ∃ cause, cause ≠ FaultCode.fetchRange ∧ s.pc.toNat ≤ 0xFFE ∧ t = s.takeFault cause (wordAtPc s) := by
  rcases stepEvent_cases h with ⟨-, rfl⟩ | ⟨-, hpc, ht⟩ | ⟨-, hpc, hexec⟩
  · exact .inl rfl
  · exact .inr (.inl ⟨hpc, ht⟩)
  · rcases exec_latches hexec with hkept | ⟨cause, hcause, ht⟩
    · exact .inl hkept.fault
    · rw [OpcodeRows.encode_decodeWord] at ht
      exact .inr (.inr ⟨cause, hcause, hpc, ht⟩)

theorem loadEvent_fault (base : Nat) (bytes : List Byte) (s : State) : (loadEvent base bytes s).fault = s.fault := by
  unfold loadEvent
  split
  · exact State.storeBytes_fault ..
  · rfl
  · rfl

theorem tickEvent_fault (s : State) : (tickEvent s).fault = s.fault := by
  unfold tickEvent
  split
  · rfl
  · rfl

/-- An event other than STEP records no fault. -/
theorem applyEvent_fault {e : Event} {s t : State} (he : e ≠ .step) (h : applyEvent e s = .next t)
    (hclear : s.fault = 0) : t.fault = 0 := by
  cases e with
  | step => exact absurd rfl he
  | reset => cases h; rfl
  | load base bytes => cases h; exact (loadEvent_fault base.val bytes s).trans hclear
  | start => cases h; exact hclear
  | stop => cases h; exact hclear
  | setKey index pressed => cases h; exact hclear
  | tick => cases h; exact (tickEvent_fault s).trans hclear

theorem toBits_of_ne_fetchRange {cause : FaultCode} (h : cause ≠ .fetchRange) :
    2 ≤ cause.toBits.toNat ∧ cause.toBits.toNat ≤ 6 := by
  cases cause with
  | fetchRange => exact absurd rfl h
  | _ => decide

theorem takeFault_halted (s : State) (cause : FaultCode) (op : Word) : (s.takeFault cause op).halted = true :=
  bne_iff_ne.mpr (FaultCode.toBits_ne_zero cause)

theorem stepEvent_takeFault (s : State) (cause : FaultCode) (op : Word) :
    stepEvent (s.takeFault cause op) = .next (s.takeFault cause op) :=
  stepEvent_of_fault (FaultCode.toBits_ne_zero cause)

/-- Settles O9: the event can only be STEP, and of its answers only the two `takeFault`s record a fault. -/
theorem faultIsPrecise : Obligations.FaultIsPrecise := by
  intro s t hclear hstep hfault
  have hevent : s.nextEvent = .step := of_not_not fun he => hfault (applyEvent_fault he hstep hclear)
  rw [step, hevent] at hstep
  rcases stepEvent_fault_cases hstep with hkept | ⟨hpc, rfl⟩ | ⟨cause, hcause, hpc, rfl⟩
  · exact absurd (hkept.trans hclear) hfault
  · exact ⟨hevent, takeFault_onlyFaultRegisters .., rfl, rfl, takeFault_halted .., stepEvent_takeFault ..,
      .inl ⟨rfl, hpc, rfl⟩⟩
  · obtain ⟨hlow, hhigh⟩ := toBits_of_ne_fetchRange hcause
    exact ⟨hevent, takeFault_onlyFaultRegisters .., rfl, rfl, takeFault_halted .., stepEvent_takeFault ..,
      .inr ⟨hlow, hhigh, hpc, rfl⟩⟩

/-! The halted block (R165, R167). -/

/-- While a fault is recorded in a started block an event other than RESET changes `KEYS`, `DT`, `ST` and `RUN` at most. -/
theorem applyEvent_halted_frame {e : Event} {s t : State} (hstarted : s.started = true) (hfault : s.fault ≠ 0)
    (he : e ≠ .reset) (h : applyEvent e s = .next t) :
    { t with keys := s.keys, dt := s.dt, st := s.st, run := s.run } = s := by
  cases e with
  | reset => exact absurd rfl he
  | load base bytes => cases (load_refused hstarted base bytes).1.symm.trans h; rfl
  | start => cases h; rw [startEvent_of_started hstarted]
  | stop => cases h; rfl
  | setKey index pressed => cases h; rfl
  | step => cases (stepEvent_of_fault hfault).symm.trans h; rfl
  | tick =>
    cases h
    cases hrun : s.run with
    | true => rw [tickEvent_of_run hrun, ← hrun]; rfl
    | false => rw [tickEvent_of_run_false hrun, ← hrun]

/-- Settles O11: a block with a fault has been started (the invariant), so LOAD too leaves it alone. -/
theorem haltedUntilReset : Obligations.HaltedUntilReset := by
  intro s hinv hfault
  have hstarted : s.started = true := hinv.fault_started hfault
  refine ⟨fun e t he h => ?_, stepEvent_of_fault hfault, load_refused hstarted, fun index pressed t h => ?_,
    ⟨_, rfl, rfl⟩, ⟨_, rfl, rfl⟩, fun hrun => ?_⟩
  · have hframe := applyEvent_halted_frame hstarted hfault he h
    have hmem : t.mem = s.mem := (congrArg State.mem hframe :)
    have hlatched : t.fault = s.fault := (congrArg State.fault hframe :)
    exact ⟨hframe, fun a => congrArg (Memory.read · a) hmem, bne_iff_ne.mpr (hlatched ▸ hfault)⟩
  · cases h
    exact setKeyEvent_key_self index pressed s
  · obtain ⟨t, htick, hdt, hst, hsound, -⟩ := (tickCountsDown s).1 hrun
    exact ⟨t, htick, hdt, hst, hsound⟩

end Sys2Proof.Faults

/-! RESET: the statements about R200 to R203. -/

namespace Sys2Proof.ResetState

open Sys2Proof.Machine Sys2Proof.Claims

/-! The contents of `Mem` (R201): no cell is listed after RESET, so every address reads its reset byte. -/

theorem resetByte_of_font {a : Nat} (h : a < 80) : Memory.resetByte a = Config.fontRom a := if_pos h

theorem resetByte_above_font {a : Nat} (h : 80 ≤ a) : Memory.resetByte a = 0x00 := if_neg (Nat.not_lt.mpr h)

theorem resetEvent_loadByte (s : State) (a : Nat) : (resetEvent s).loadByte a = Memory.resetByte a := Memory.read_nil a

/-! The registers, the stack, the keys and the pixels (R202, R203). -/

theorem resetEvent_readV (s : State) (r : Reg) : (resetEvent s).readV r = 0x00 := Vector.getElem_replicate r.isLt

theorem resetEvent_stack (s : State) (k : Fin 16) : (resetEvent s).stack[k.val] = 0x0000 := Vector.getElem_replicate k.isLt

theorem resetEvent_keys (s : State) (k : Fin 16) : (resetEvent s).keys[k.val] = false := Vector.getElem_replicate k.isLt

theorem resetEvent_pixelRead (s : State) (px : Fin 64) (py : Fin 32) : (resetEvent s).pixelRead px py = false :=
  Framebuffer.pixel_blank px.val py.val

/-- The state that RESET answers has the reset values, whatever the state before: the two inputs it keeps are not among them. -/
theorem hasResetValues_resetEvent (s : State) : HasResetValues (resetEvent s) := by
  have hfont (a : Nat) (ha : a < 80) : (resetEvent s).loadByte a = Config.fontRom a :=
    (resetEvent_loadByte s a).trans (resetByte_of_font ha)
  have hrest (a : Nat) (ha : 80 ≤ a) (_ : a < 4096) : (resetEvent s).loadByte a = 0x00 :=
    (resetEvent_loadByte s a).trans (resetByte_above_font ha)
  exact ⟨hfont, hrest, resetEvent_readV s, rfl, rfl, rfl, resetEvent_stack s, rfl, rfl, resetEvent_keys s,
    resetEvent_pixelRead s, rfl, rfl, rfl, rfl, rfl, rfl, rfl⟩

/-- The state right after reset is what RESET makes of it. -/
theorem resetEvent_reset : resetEvent State.reset = State.reset := rfl

/-- Settles O12: RESET answers `resetEvent` of the state, and the state right after reset is such an answer too. -/
theorem resetGivesResetValues : Obligations.ResetGivesResetValues :=
  ⟨resetEvent_reset ▸ hasResetValues_resetEvent State.reset, fun s => ⟨resetEvent s, rfl, hasResetValues_resetEvent s⟩⟩

end Sys2Proof.ResetState

/-! The decoder and the encoder as inverses: the statements about R60 to R69. -/

namespace Sys2Proof.DecodeEncode

open Sys2Proof.OpcodeRows

/-! A word built by each format decodes by the decoder's line for its row (R62, R65). `hdecode` is that line. -/

section
variable {o : BitVec 4}

theorem decodeWord_formNNN {c : BitVec 12 → Instr} (hdecode : ∀ {op}, opclass op = o → decodeWord op = c (addr12 op))
    (nnn : BitVec 12) : decodeWord (formNNN o nnn) = c nnn := by
  rw [hdecode (opclass_formNNN o nnn), addr12_formNNN]

theorem decodeWord_formXKK {c : Reg → Byte → Instr}
    (hdecode : ∀ {op}, opclass op = o → decodeWord op = c (regX op) (imm8 op)) (x : Reg) (kk : Byte) :
    decodeWord (formXKK o (regBits x) kk) = c x kk := by
  rw [hdecode (opclass_formXKK o _ kk), regX_formXKK, imm8_formXKK]

theorem decodeWord_formXD8 {c : Reg → Instr} {kk : Byte}
    (hdecode : ∀ {op}, opclass op = o → imm8 op = kk → decodeWord op = c (regX op)) (x : Reg) :
    decodeWord (formXKK o (regBits x) kk) = c x := by
  rw [hdecode (opclass_formXKK o _ kk) (imm8_formXKK o _ kk), regX_formXKK]

theorem decodeWord_formD8 {c : BitVec 4 → Instr} {kk : Byte}
    (hdecode : ∀ {op}, opclass op = o → imm8 op = kk → decodeWord op = c (bits11to8 op)) (ignored : BitVec 4) :
    decodeWord (formXKK o ignored kk) = c ignored := by
  rw [hdecode (opclass_formXKK o _ kk) (imm8_formXKK o _ kk), bits11to8_formXKK]

theorem decodeWord_formXYS {c : Reg → Reg → Instr} {n : BitVec 4}
    (hdecode : ∀ {op}, opclass op = o → subop4 op = n → decodeWord op = c (regX op) (regY op)) (x y : Reg) :
    decodeWord (formXYN o (regBits x) (regBits y) n) = c x y := by
  rw [hdecode (opclass_formXYN o _ _ n) (subop4_formXYN o _ _ n), regX_formXYN, regY_formXYN]

theorem decodeWord_formXYN {c : Reg → Reg → BitVec 4 → Instr}
    (hdecode : ∀ {op}, opclass op = o → decodeWord op = c (regX op) (regY op) (subop4 op)) (x y : Reg) (n : BitVec 4) :
    decodeWord (formXYN o (regBits x) (regBits y) n) = c x y n := by
  rw [hdecode (opclass_formXYN o _ _ n), regX_formXYN, regY_formXYN, subop4_formXYN]

end

/-! `WellFormed` on the families with listed rows: the discriminator is none of those the decoder tests for (R67). -/

theorem unlistedIn0_iff (b : Byte) : unlistedIn0 b = true ↔ b ∉ [0xE0#8, 0xEE#8] := by
  simp [unlistedIn0]

theorem unlistedIn8_iff (n : BitVec 4) :
    unlistedIn8 n = true ↔ n ∉ [0x0#4, 0x1#4, 0x2#4, 0x3#4, 0x4#4, 0x5#4, 0x6#4, 0xE#4] := by
  revert n
  decide

theorem unlistedInE_iff (b : Byte) : unlistedInE b = true ↔ b ∉ [0x9E#8, 0xA1#8] := by
  simp [unlistedInE]

theorem unlistedInF_iff (b : Byte) :
    unlistedInF b = true ↔ b ∉ [0x07#8, 0x15#8, 0x18#8, 0x29#8, 0x33#8, 0x55#8, 0x65#8] := by
  simp [unlistedInF, and_assoc]

/-! The fall-through of these families. -/

section
variable {ignored : BitVec 12}

theorem decodeWord_formNNN_unlisted0 (h : unlistedIn0 (ignored.setWidth 8) = true) :
    decodeWord (formNNN 0x0#4 ignored) = .unlisted0 ignored := by
  simp only [unlistedIn0_iff, List.mem_cons, List.not_mem_nil, or_false, not_or] at h
  rw [decodeWord_family0 (opclass_formNNN ..), decodeFamily0, imm8_formNNN, addr12_formNNN]
  simp [h]

theorem decodeWord_formNNN_unlisted8 (h : unlistedIn8 (ignored.setWidth 4) = true) :
    decodeWord (formNNN 0x8#4 ignored) = .unlisted8 ignored := by
  simp only [unlistedIn8_iff, List.mem_cons, List.not_mem_nil, or_false, not_or] at h
  rw [decodeWord_family8 (opclass_formNNN ..), decodeFamily8, subop4_formNNN, addr12_formNNN]
  simp [h]

theorem decodeWord_formNNN_unlistedE (h : unlistedInE (ignored.setWidth 8) = true) :
    decodeWord (formNNN 0xE#4 ignored) = .unlistedE ignored := by
  simp only [unlistedInE_iff, List.mem_cons, List.not_mem_nil, or_false, not_or] at h
  rw [decodeWord_familyE (opclass_formNNN ..), decodeFamilyE, imm8_formNNN, addr12_formNNN]
  simp [h]

theorem decodeWord_formNNN_unlistedF (h : unlistedInF (ignored.setWidth 8) = true) :
    decodeWord (formNNN 0xF#4 ignored) = .unlistedF ignored := by
  simp only [unlistedInF_iff, List.mem_cons, List.not_mem_nil, or_false, not_or] at h
  rw [decodeWord_familyF (opclass_formNNN ..), decodeFamilyF, imm8_formNNN, addr12_formNNN]
  simp [h]

end

/-! The two directions. -/

/-- The decoder undoes the encoder on every well-formed instruction (R65, R66, R67). -/
theorem decodeWord_encode {i : Instr} (hwf : i.wellFormed = true) : decodeWord (encode i) = i := by
  cases i with
  | cls ignored => exact decodeWord_formD8 decodeWord_cls ignored
  | ret ignored => exact decodeWord_formD8 ControlTransfer.decodeWord_ret ignored
  | jpAddr nnn => exact decodeWord_formNNN decodeWord_family1 nnn
  | callAddr nnn => exact decodeWord_formNNN decodeWord_family2 nnn
  | seVxByte x kk => exact decodeWord_formXKK decodeWord_family3 x kk
  | sneVxByte x kk => exact decodeWord_formXKK decodeWord_family4 x kk
  | ldVxByte x kk => exact decodeWord_formXKK decodeWord_family6 x kk
  | addVxByte x kk => exact decodeWord_formXKK decodeWord_family7 x kk
  | ldVxVy x y => exact decodeWord_formXYS decodeWord_ldVxVy x y
  | orVxVy x y => exact decodeWord_formXYS decodeWord_orVxVy x y
  | andVxVy x y => exact decodeWord_formXYS decodeWord_andVxVy x y
  | xorVxVy x y => exact decodeWord_formXYS decodeWord_xorVxVy x y
  | addVxVy x y => exact decodeWord_formXYS decodeWord_addVxVy x y
  | subVxVy x y => exact decodeWord_formXYS decodeWord_subVxVy x y
  | shrVxVy x y => exact decodeWord_formXYS decodeWord_shrVxVy x y
  | shlVxVy x y => exact decodeWord_formXYS decodeWord_shlVxVy x y
  | ldIAddr nnn => exact decodeWord_formNNN decodeWord_familyA nnn
  | rndVxByte x kk => exact decodeWord_formXKK decodeWord_familyC x kk
  | drwVxVyN x y n => exact decodeWord_formXYN decodeWord_familyD x y n
  | skpVx x => exact decodeWord_formXD8 decodeWord_skpVx x
  | sknpVx x => exact decodeWord_formXD8 decodeWord_sknpVx x
  | ldVxDt x => exact decodeWord_formXD8 decodeWord_ldVxDt x
  | ldDtVx x => exact decodeWord_formXD8 decodeWord_ldDtVx x
  | ldStVx x => exact decodeWord_formXD8 decodeWord_ldStVx x
  | ldFVx x => exact decodeWord_formXD8 decodeWord_ldFVx x
  | ldBVx x => exact decodeWord_formXD8 decodeWord_ldBVx x
  | ldMemVx x => exact decodeWord_formXD8 decodeWord_ldMemVx x
  | ldVxMem x => exact decodeWord_formXD8 decodeWord_ldVxMem x
  | unlisted5 ignored => exact decodeWord_formNNN decodeWord_family5 ignored
  | unlisted9 ignored => exact decodeWord_formNNN decodeWord_family9 ignored
  | unlistedB ignored => exact decodeWord_formNNN decodeWord_familyB ignored
  | unlisted0 ignored => exact decodeWord_formNNN_unlisted0 hwf
  | unlisted8 ignored => exact decodeWord_formNNN_unlisted8 hwf
  | unlistedE ignored => exact decodeWord_formNNN_unlistedE hwf
  | unlistedF ignored => exact decodeWord_formNNN_unlistedF hwf

/-- Settles O1: the two bytes make up the word again, and the decoder undoes the encoder on words. -/
theorem decodeOfEncodedInstruction : Obligations.DecodeOfEncodedInstruction := by
  intro i rest hwf
  rw [decode_encodeBytes_append, decodeWord_encode hwf]

/-! What the decoder answers is well-formed: only the fall-through of a family with listed rows needs a check (R67). -/

theorem wellFormed_decodeFamily0 (op : Word) : (decodeFamily0 op).wellFormed = true := by
  unfold decodeFamily0
  split_ifs with hE0 hEE
  · rfl
  · rfl
  · rw [Instr.wellFormed, setWidth8_addr12, unlistedIn0_iff]
    simp [hE0, hEE]

theorem wellFormed_decodeFamily8 (op : Word) : (decodeFamily8 op).wellFormed = true := by
  unfold decodeFamily8
  split_ifs with h0 h1 h2 h3 h4 h5 h6 hE
  · rfl
  · rfl
  · rfl
  · rfl
  · rfl
  · rfl
  · rfl
  · rfl
  · rw [Instr.wellFormed, setWidth4_addr12, unlistedIn8_iff]
    simp [h0, h1, h2, h3, h4, h5, h6, hE]

theorem wellFormed_decodeFamilyE (op : Word) : (decodeFamilyE op).wellFormed = true := by
  unfold decodeFamilyE
  split_ifs with h9E hA1
  · rfl
  · rfl
  · rw [Instr.wellFormed, setWidth8_addr12, unlistedInE_iff]
    simp [h9E, hA1]

theorem wellFormed_decodeFamilyF (op : Word) : (decodeFamilyF op).wellFormed = true := by
  unfold decodeFamilyF
  split_ifs with h07 h15 h18 h29 h33 h55 h65
  · rfl
  · rfl
  · rfl
  · rfl
  · rfl
  · rfl
  · rfl
  · rw [Instr.wellFormed, setWidth8_addr12, unlistedInF_iff]
    simp [h07, h15, h18, h29, h33, h55, h65]

theorem wellFormed_decodeWord (op : Word) : (decodeWord op).wellFormed = true := by
  rcases opclass_cases op with ho | ho | ho | ho | ho | ho | ho | ho | ho | ho | ho | ho | ho | ho | ho | ho
  · rw [decodeWord_family0 ho]; exact wellFormed_decodeFamily0 op
  · rw [decodeWord_family1 ho]; rfl
  · rw [decodeWord_family2 ho]; rfl
  · rw [decodeWord_family3 ho]; rfl
  · rw [decodeWord_family4 ho]; rfl
  · rw [decodeWord_family5 ho]; rfl
  · rw [decodeWord_family6 ho]; rfl
  · rw [decodeWord_family7 ho]; rfl
  · rw [decodeWord_family8 ho]; exact wellFormed_decodeFamily8 op
  · rw [decodeWord_family9 ho]; rfl
  · rw [decodeWord_familyA ho]; rfl
  · rw [decodeWord_familyB ho]; rfl
  · rw [decodeWord_familyC ho]; rfl
  · rw [decodeWord_familyD ho]; rfl
  · rw [decodeWord_familyE ho]; exact wellFormed_decodeFamilyE op
  · rw [decodeWord_familyF ho]; exact wellFormed_decodeFamilyF op

/-- Settles O2: the decoder's answer is well-formed, and the encoder undoes the decoder. -/
theorem everyWordIsOneInstruction : Obligations.EveryWordIsOneInstruction := fun op =>
  ⟨wellFormed_decodeWord op, encode_decodeWord op⟩

/-- Settles O3: each of the words is the encoding of its instruction, and the decoder undoes the encoder. -/
theorem sampleWordsDecode : Obligations.SampleWordsDecode :=
  ⟨decodeWord_encode (i := .cls 0) rfl, decodeWord_encode (i := .ret 0xA) rfl, decodeWord_encode (i := .jpAddr 0xABC) rfl,
    decodeWord_encode (i := .seVxByte 0xA 0x7F) rfl, decodeWord_encode (i := .addVxVy 0xA 0xB) rfl,
    decodeWord_encode (i := .shlVxVy 0xA 0xB) rfl, decodeWord_encode (i := .ldIAddr 0x300) rfl,
    decodeWord_encode (i := .rndVxByte 0 0x3C) rfl, decodeWord_encode (i := .drwVxVyN 1 2 5) rfl,
    decodeWord_encode (i := .skpVx 5) rfl, decodeWord_encode (i := .ldBVx 4) rfl,
    decodeWord_encode (i := .unlisted5 0x120) rfl, decodeWord_encode (i := .unlisted8 0xAB7) rfl,
    decodeWord_encode (i := .unlistedF 0x00A) rfl, decodeWord_encode (i := .unlisted0 0x000) rfl⟩

end Sys2Proof.DecodeEncode

/-! What an instruction answers: the fault whose condition of R162 holds, or its effect where none does. -/

namespace Sys2Proof.Effects

open Sys2Proof.Machine Sys2Proof.Claims Sys2Proof.ControlTransfer Sys2Proof.Faults

/-- The state after the fault `code` of the instruction `i` (R161, R163). -/
def faulted (i : Instr) (s : State) (code : Nat) : State :=
  { s with fault := BitVec.ofNat 3 code, faultPc := s.pc, faultOp := encode i }

/-- The instruction meets no condition of R162: each condition's opposite, at the instruction that has it. -/
def Fits : Instr → State → Prop
  | .ret _, s => s.sp.val ≠ 0
  | .callAddr _, s => s.sp.val < 16
  | .drwVxVyN x y n, s => SpriteInMemory s n ∧ SpriteInGrid s x y n
  | .ldBVx _, s => s.i.toNat + 2 ≤ 4095
  | .ldMemVx x, s | .ldVxMem x, s => s.i.toNat + x.val ≤ 4095
  | .skpVx x, s | .sknpVx x, s => (s.readV x).toNat < 16
  | _, _ => True

section
variable {i : Instr} {s t : State} {code : Nat}

theorem exec_of_executeFault (h : ExecuteFault i s code) : exec i s = .next (faulted i s code) := by
  obtain ⟨t, hexec, rfl, hpc, hop, -, hframe, -⟩ := faultsWith_of_executeFault h
  have ht : t = { s with fault := t.fault, faultPc := t.faultPc, faultOp := t.faultOp } := by rw [← hframe]
  rw [hexec, faulted, BitVec.ofNat_toNat, BitVec.setWidth_eq, ← hop]
  exact congrArg Host.Outcome.next (ht.trans (by rw [hpc]))

theorem fault_toNat_of_executeFault (h : ExecuteFault i s code) (hexec : exec i s = .next t) : t.fault.toNat = code := by
  obtain ⟨u, hu, hfault, -⟩ := faultsWith_of_executeFault h
  cases hexec.symm.trans hu
  exact hfault

theorem fault_ne_zero_of_executeFault (h : ExecuteFault i s code) (hexec : exec i s = .next t) : t.fault ≠ 0 := by
  obtain ⟨u, hu, -, -, -, hhalted, -⟩ := faultsWith_of_executeFault h
  cases hexec.symm.trans hu
  exact bne_iff_ne.mp hhalted

theorem fits_of_no_executeFault (hnone : ∀ code, ¬ ExecuteFault i s code) : Fits i s := by
  cases i with
  | ret ignored => exact fun h => hnone 3 (by simp [ExecuteFault, h])
  | callAddr nnn =>
    have hroom : s.sp.val ≠ 16 := fun h => hnone 4 (by simp [ExecuteFault, h])
    exact Nat.lt_of_le_of_ne (Nat.le_of_lt_succ s.sp.isLt) hroom
  | drwVxVyN x y n =>
    have hmem : SpriteInMemory s n := of_not_not fun h => hnone 2 (by simp [ExecuteFault, h])
    exact ⟨hmem, of_not_not fun h => hnone 5 (by simp [ExecuteFault, hmem, h])⟩
  | ldBVx x => exact Nat.le_of_not_lt fun h => hnone 2 (by simp [ExecuteFault, h])
  | ldMemVx x => exact Nat.le_of_not_lt fun h => hnone 2 (by simp [ExecuteFault, h])
  | ldVxMem x => exact Nat.le_of_not_lt fun h => hnone 2 (by simp [ExecuteFault, h])
  | skpVx x => exact Nat.lt_of_not_le fun h => hnone 6 (by simp [ExecuteFault, Nat.lt_of_succ_le h])
  | sknpVx x => exact Nat.lt_of_not_le fun h => hnone 6 (by simp [ExecuteFault, Nat.lt_of_succ_le h])
  | _ => trivial

theorem fits_or_executeFault (i : Instr) (s : State) : Fits i s ∨ ∃ code, ExecuteFault i s code := by
  by_cases h : ∃ code, ExecuteFault i s code
  · exact .inr h
  · exact .inl (fits_of_no_executeFault (not_exists.mp h))

end

end Sys2Proof.Effects

/-! Who writes what: the statements about R11 to R34 over all instructions. -/

namespace Sys2Proof.Writers

open Sys2Proof.Machine Sys2Proof.Claims Sys2Proof.ControlTransfer Sys2Proof.Alu Sys2Proof.IndexMemory Sys2Proof.Display
  Sys2Proof.KeysTimers Sys2Proof.Effects

/-- `t` with `PC` and the fields that `i` may write set back to those of `s`. -/
def restore (i : Instr) (s t : State) : State :=
  match i with
  | .jpAddr _ | .seVxByte _ _ | .sneVxByte _ _ | .skpVx _ | .sknpVx _ | .unlisted0 _ | .unlisted5 _ | .unlisted8 _
  | .unlisted9 _ | .unlistedB _ | .unlistedE _ | .unlistedF _ => { t with pc := s.pc }
  | .ldVxByte _ _ | .addVxByte _ _ | .ldVxVy _ _ | .orVxVy _ _ | .andVxVy _ _ | .xorVxVy _ _ | .addVxVy _ _ | .subVxVy _ _
  | .shrVxVy _ _ | .shlVxVy _ _ | .ldVxDt _ | .ldVxMem _ => { t with v := s.v, pc := s.pc }
  | .rndVxByte _ _ => { t with v := s.v, draws := s.draws, pc := s.pc }
  | .drwVxVyN _ _ _ => { t with fb := s.fb, v := s.v, pc := s.pc }
  | .cls _ => { t with fb := s.fb, pc := s.pc }
  | .ldIAddr _ | .ldFVx _ => { t with i := s.i, pc := s.pc }
  | .ldDtVx _ => { t with dt := s.dt, pc := s.pc }
  | .ldStVx _ => { t with st := s.st, pc := s.pc }
  | .ldBVx _ | .ldMemVx _ => { t with mem := s.mem, pc := s.pc }
  | .ret _ => { t with sp := s.sp, pc := s.pc }
  | .callAddr _ => { t with sp := s.sp, stack := s.stack, pc := s.pc }

/-- Every register that `i` is no writer of is as before. -/
def KeepsOtherV (i : Instr) (s t : State) : Prop := ∀ r, ¬ WritesV i r → t.readV r = s.readV r

/-! The registers (R11). -/

section
variable {i : Instr} {x : Reg} {s t : State}

theorem keepsOtherV_of_keepsVBut (hx : WritesV i x) (h : KeepsVBut x s t) : KeepsOtherV i s t :=
  fun r hr => h r fun hrx => hr (hrx ▸ hx)

theorem keepsOtherV_advance_writeV (hx : WritesV i x) (b : Byte) : KeepsOtherV i s (s.advance.writeV x b) :=
  keepsOtherV_of_keepsVBut hx (advance_writeV_frame s x b).1

/-- The flag writers of the ALU write their destination and `V[0xF]`. -/
theorem keepsOtherV_flagWriter {y : Reg} (h : i = .addVxVy x y ∨ i = .subVxVy x y ∨ i = .shrVxVy x y ∨ i = .shlVxVy x y)
    (b : Byte) (flag : Bool) : KeepsOtherV i s (s.advance.writeResultAndFlag x b flag) := by
  have hwrites {r : Reg} (hr : r = x ∨ r = 0xF) : WritesV i r := .inr (.inr (.inl ⟨x, y, h, hr⟩))
  exact fun r hr => (advance_writeResultAndFlag_frame s x b flag).1 r (fun hrx => hr (hwrites (.inl hrx)))
    fun hrF => hr (hwrites (.inr hrF))

theorem writesV_data {r : Reg} {kk : Byte} (h : i = .ldVxByte r kk ∨ i = .addVxByte r kk ∨ i = .rndVxByte r kk) :
    WritesV i r :=
  .inl ⟨kk, h⟩

theorem writesV_logic {r y : Reg} (h : i = .ldVxVy r y ∨ i = .orVxVy r y ∨ i = .andVxVy r y ∨ i = .xorVxVy r y) :
    WritesV i r :=
  .inr (.inl ⟨y, h⟩)

theorem keepsOtherV_advance_loadRegs (x : Reg) (s : State) :
    KeepsOtherV (.ldVxMem x) s (s.advance.loadRegs s.i.toNat (x.val + 1)) := by
  intro r hr
  have hxr : ¬ r.val < x.val + 1 := fun h => hr (.inr (.inr (.inr (.inr (.inr ⟨x, rfl, Nat.le_of_lt_succ h⟩)))))
  rw [State.loadRegs_readV _ _ _ x.isLt, if_neg hxr, State.advance_readV]

end

/-! The effect of an instruction that meets no condition of R162. -/

theorem exec_effect {i : Instr} {s : State} (h : Fits i s) :
    ∃ t, exec i s = .next t ∧ restore i s t = s ∧ KeepsOtherV i s t := by
  cases i with
  | ret ignored => exact ⟨_, exec_ret_of_pos ignored h, rfl, fun _ _ => rfl⟩
  | callAddr nnn => exact ⟨_, exec_callAddr_of_lt nnn h, rfl, fun _ _ => rfl⟩
  | seVxByte x kk => exact ⟨_, rfl, (advance_skipIf_onlyPc s _).1, fun r _ => State.skipIf_readV ..⟩
  | sneVxByte x kk => exact ⟨_, rfl, (advance_skipIf_onlyPc s _).1, fun r _ => State.skipIf_readV ..⟩
  | skpVx x => exact ⟨_, exec_skpVx_of_key x h, (advance_skipIf_onlyPc s _).1, fun r _ => State.skipIf_readV ..⟩
  | sknpVx x => exact ⟨_, exec_sknpVx_of_key x h, (advance_skipIf_onlyPc s _).1, fun r _ => State.skipIf_readV ..⟩
  | ldVxByte x kk => exact ⟨_, rfl, rfl, keepsOtherV_advance_writeV (writesV_data (.inl rfl)) _⟩
  | addVxByte x kk => exact ⟨_, rfl, rfl, keepsOtherV_advance_writeV (writesV_data (.inr (.inl rfl))) _⟩
  | rndVxByte x kk => exact ⟨_, rfl, rfl, keepsOtherV_advance_writeV (writesV_data (.inr (.inr rfl))) _⟩
  | ldVxVy x y => exact ⟨_, rfl, rfl, keepsOtherV_advance_writeV (writesV_logic (.inl rfl)) _⟩
  | orVxVy x y => exact ⟨_, rfl, rfl, keepsOtherV_advance_writeV (writesV_logic (.inr (.inl rfl))) _⟩
  | andVxVy x y => exact ⟨_, rfl, rfl, keepsOtherV_advance_writeV (writesV_logic (.inr (.inr (.inl rfl)))) _⟩
  | xorVxVy x y => exact ⟨_, rfl, rfl, keepsOtherV_advance_writeV (writesV_logic (.inr (.inr (.inr rfl)))) _⟩
  | addVxVy x y => exact ⟨_, rfl, rfl, keepsOtherV_flagWriter (.inl rfl) _ _⟩
  | subVxVy x y => exact ⟨_, rfl, rfl, keepsOtherV_flagWriter (.inr (.inl rfl)) _ _⟩
  | shrVxVy x y => exact ⟨_, rfl, rfl, keepsOtherV_flagWriter (.inr (.inr (.inl rfl))) _ _⟩
  | shlVxVy x y => exact ⟨_, rfl, rfl, keepsOtherV_flagWriter (.inr (.inr (.inr rfl))) _ _⟩
  | drwVxVyN x y n =>
    obtain ⟨cv, hexec, -⟩ := exec_drwVxVyN_drawn h.1 h.2
    exact ⟨_, hexec, rfl, keepsOtherV_of_keepsVBut (.inr (.inr (.inr (.inl ⟨x, y, n, rfl, rfl⟩)))) (drawn_frame s cv).1⟩
  | ldVxDt x => exact ⟨_, rfl, rfl, keepsOtherV_advance_writeV (.inr (.inr (.inr (.inr (.inl rfl))))) _⟩
  | ldBVx x => exact ⟨_, exec_ldBVx_of_range x h, rfl, fun _ _ => rfl⟩
  | ldMemVx x => exact ⟨_, exec_ldMemVx_of_range x h, rfl, fun _ _ => rfl⟩
  | ldVxMem x =>
    exact ⟨_, exec_ldVxMem_of_range x h, (advance_loadRegs_onlyV s ..).1, keepsOtherV_advance_loadRegs x s⟩
  | _ => exact ⟨_, rfl, rfl, fun _ _ => rfl⟩

/-! Each field's writers, read off the restored state. -/

section
variable {i : Instr} {s t : State} (h : restore i s t = s)
include h

theorem writers_of_i (hne : t.i ≠ s.i) : (∃ nnn, i = .ldIAddr nnn) ∨ ∃ x, i = .ldFVx x := by
  cases i with
  | ldIAddr nnn => exact .inl ⟨nnn, rfl⟩
  | ldFVx x => exact .inr ⟨x, rfl⟩
  | _ => exact absurd (congrArg State.i h) hne

theorem writers_of_sp (hne : t.sp ≠ s.sp) : (∃ ignored, i = .ret ignored) ∨ ∃ nnn, i = .callAddr nnn := by
  cases i with
  | ret ignored => exact .inl ⟨ignored, rfl⟩
  | callAddr nnn => exact .inr ⟨nnn, rfl⟩
  | _ => exact absurd (congrArg State.sp h) hne

theorem writers_of_stack (hne : t.stack ≠ s.stack) : ∃ nnn, i = .callAddr nnn := by
  cases i with
  | callAddr nnn => exact ⟨nnn, rfl⟩
  | _ => exact absurd (congrArg State.stack h) hne

theorem writers_of_dt (hne : t.dt ≠ s.dt) : ∃ x, i = .ldDtVx x := by
  cases i with
  | ldDtVx x => exact ⟨x, rfl⟩
  | _ => exact absurd (congrArg State.dt h) hne

theorem writers_of_st (hne : t.st ≠ s.st) : ∃ x, i = .ldStVx x := by
  cases i with
  | ldStVx x => exact ⟨x, rfl⟩
  | _ => exact absurd (congrArg State.st h) hne

theorem writers_of_fb (hne : t.fb ≠ s.fb) : (∃ ignored, i = .cls ignored) ∨ ∃ x y n, i = .drwVxVyN x y n := by
  cases i with
  | cls ignored => exact .inl ⟨ignored, rfl⟩
  | drwVxVyN x y n => exact .inr ⟨x, y, n, rfl⟩
  | _ => exact absurd (congrArg State.fb h) hne

theorem writers_of_mem (hne : t.mem ≠ s.mem) : (∃ x, i = .ldBVx x) ∨ ∃ x, i = .ldMemVx x := by
  cases i with
  | ldBVx x => exact .inl ⟨x, rfl⟩
  | ldMemVx x => exact .inr ⟨x, rfl⟩
  | _ => exact absurd (congrArg State.mem h) hne

theorem writers_of_draws (hne : t.draws ≠ s.draws) : ∃ x kk, i = .rndVxByte x kk := by
  cases i with
  | rndVxByte x kk => exact ⟨x, kk, rfl⟩
  | _ => exact absurd (congrArg State.draws h) hne

theorem keepsLatches_of_restore : KeepsLatches s t := by
  cases i <;> exact ⟨(congrArg State.keys h :), (congrArg State.run h :), (congrArg State.started h :),
    (congrArg State.fault h :), (congrArg State.faultPc h :), (congrArg State.faultOp h :), (congrArg State.schedule h :)⟩

end

/-- Settles O42: a fault writes the fault registers alone, and any other answer is as before once its writable fields are
restored. -/
theorem eachFieldHasItsWriters : Obligations.EachFieldHasItsWriters := by
  intro i s t h
  rcases fits_or_executeFault i s with hfits | ⟨code, hcode⟩
  · obtain ⟨u, hu, hrestore, hregs⟩ := exec_effect hfits
    cases h.symm.trans hu
    obtain ⟨hkeys, hrun, hstarted, hfault, hfaultPc, hfaultOp, hschedule⟩ := keepsLatches_of_restore hrestore
    exact ⟨fun r hne => of_not_not fun hr => hne (hregs r hr), writers_of_i hrestore, writers_of_sp hrestore,
      writers_of_stack hrestore, writers_of_dt hrestore, writers_of_st hrestore, writers_of_fb hrestore,
      writers_of_mem hrestore, writers_of_draws hrestore, by simp [hfault, hfaultPc, hfaultOp], hkeys, hrun, hstarted,
      hschedule⟩
  · have hrecorded := fault_toNat_of_executeFault hcode h
    cases h.symm.trans (exec_of_executeFault hcode)
    have hsame {α : Type} {a : α} {p : Prop} (hne : a ≠ a) : p := absurd rfl hne
    exact ⟨fun _ => hsame, hsame, hsame, hsame, hsame, hsame, hsame, hsame, hsame, fun _ => hrecorded.symm ▸ hcode, rfl, rfl,
      rfl, rfl⟩

/-! The flag register (R12). -/

theorem flagByte_zero_or_one (flag : Bool) : flagByte flag = 0x00 ∨ flagByte flag = 0x01 := by
  cases flag with
  | false => exact .inl rfl
  | true => exact .inr rfl

/-- The answer of an ALU flag writer: a result and a flag. -/
theorem exec_flagWriter {i : Instr} {x y : Reg} {s : State}
    (h : i = .addVxVy x y ∨ i = .subVxVy x y ∨ i = .shrVxVy x y ∨ i = .shlVxVy x y) :
    ∃ b flag, exec i s = .next (s.advance.writeResultAndFlag x b flag) := by
  rcases h with rfl | rfl | rfl | rfl
  · exact ⟨_, _, exec_addVxVy x y s⟩
  · exact ⟨_, _, exec_subVxVy x y s⟩
  · exact ⟨_, _, exec_shrVxVy x y s⟩
  · exact ⟨_, _, exec_shlVxVy x y s⟩

/-- A draw after which no fault is recorded met neither of its two fault conditions. -/
theorem sprite_fits_of_no_fault {x y : Reg} {n : BitVec 4} {s t : State} (h : exec (.drwVxVyN x y n) s = .next t)
    (ht : t.fault = 0) : SpriteInMemory s n ∧ SpriteInGrid s x y n := by
  rcases fits_or_executeFault (.drwVxVyN x y n) s with hfits | ⟨code, hcode⟩
  · exact hfits
  · exact absurd ht (fault_ne_zero_of_executeFault hcode h)

/-- Settles O43: the writers of `V[0xF]` are those of any register with 0xF in it, and the flag writers end with a flag byte. -/
theorem flagRegisterHasItsWriters : Obligations.FlagRegisterHasItsWriters := by
  intro i s t h
  constructor
  · intro hne
    rcases (eachFieldHasItsWriters i s t h).1 0xF hne with hdata | hlogic | ⟨x, y, hflag, -⟩ | ⟨x, y, n, hdraw, -⟩ | htimer |
      ⟨x, hload, hx⟩
    · exact .inr (.inr (.inl hdata))
    · exact .inr (.inr (.inr (.inl hlogic)))
    · exact .inl ⟨x, y, hflag⟩
    · exact .inr (.inl ⟨x, y, n, hdraw⟩)
    · exact .inr (.inr (.inr (.inr (.inl htimer))))
    · have hxF : x = 0xF := Fin.ext (Nat.le_antisymm (Nat.le_of_lt_succ x.isLt) hx)
      exact .inr (.inr (.inr (.inr (.inr (hxF ▸ hload)))))
  · rintro (⟨x, y, hflag⟩ | ⟨x, y, n, rfl, -, ht⟩)
    · obtain ⟨b, flag, hexec⟩ := exec_flagWriter (s := s) hflag
      cases h.symm.trans hexec
      rw [readV_writeResultAndFlag_flag]
      exact flagByte_zero_or_one flag
    · obtain ⟨hmem, hgrid⟩ := sprite_fits_of_no_fault h ht
      obtain ⟨cv, hexec, -⟩ := exec_drwVxVyN_drawn hmem hgrid
      cases h.symm.trans hexec
      exact (readV_writeV_self _ flagReg _).symm ▸ flagByte_zero_or_one cv.coll

end Sys2Proof.Writers

/-! What no instruction reads: the statements about ST, KEYS, RUN, STARTED and the fault registers, and TICK. -/

namespace Sys2Proof.Noninterference

open Sys2Proof.Machine Sys2Proof.Claims Sys2Proof.ControlTransfer Sys2Proof.IndexMemory Sys2Proof.Display Sys2Proof.KeysTimers
  Sys2Proof.HostEvents Sys2Proof.Effects

/-- A change of the fields that few instructions or none read. -/
structure Change where
  dt : Byte → Byte := id
  st : Byte → Byte := id
  keys : Vector Bool 16 → Vector Bool 16 := id
  run : Bool → Bool := id
  started : Bool → Bool := id
  fault : BitVec 3 → BitVec 3 := id
  faultPc : Word → Word := id
  faultOp : Word → Word := id

/-- The state with the change made. -/
def Change.apply (m : Change) (s : State) : State :=
  { s with
    dt := m.dt s.dt, st := m.st s.st, keys := m.keys s.keys, run := m.run s.run, started := m.started s.started,
    fault := m.fault s.fault, faultPc := m.faultPc s.faultPc, faultOp := m.faultOp s.faultOp }

/-- The instruction neither reads nor writes a field that is changed, the fault registers apart. -/
structure Untouched (m : Change) (i : Instr) : Prop where
  keys : (∃ x, i = .skpVx x ∨ i = .sknpVx x) → m.keys = id
  dt : (∃ x, i = .ldVxDt x ∨ i = .ldDtVx x) → m.dt = id
  st : (∃ x, i = .ldStVx x) → m.st = id

section
variable {m : Change} {i : Instr} {s t : State}

theorem untouched_of_id (hkeys : m.keys = id) (hdt : m.dt = id) (hst : m.st = id) (i : Instr) : Untouched m i :=
  ⟨fun _ => hkeys, fun _ => hdt, fun _ => hst⟩

theorem apply_keys (h : m.keys = id) (s : State) : (m.apply s).keys = s.keys := congrFun h s.keys

theorem apply_dt (h : m.dt = id) (s : State) : (m.apply s).dt = s.dt := congrFun h s.dt

theorem apply_skipIf (m : Change) (s : State) (taken : Bool) :
    (m.apply s).advance.skipIf taken = m.apply (s.advance.skipIf taken) := by
  cases taken with
  | true => rfl
  | false => rfl

theorem apply_loadRegs (m : Change) (s : State) (base k : Nat) :
    (m.apply s).loadRegs base k = m.apply (s.loadRegs base k) := by
  induction k with
  | zero => rfl
  | succ j ih =>
    rw [State.loadRegs, ih]
    rfl

theorem apply_setDt (h : m.dt = id) (s : State) (b : Byte) : (m.apply s).setDt b = m.apply (s.setDt b) := by
  simp [Change.apply, State.setDt, h]

theorem apply_setSt (h : m.st = id) (s : State) (b : Byte) : (m.apply s).setSt b = m.apply (s.setSt b) := by
  simp [Change.apply, State.setSt, h]

/-- The effect of an instruction goes through a change of fields it has nothing to do with. -/
theorem exec_effect_apply (hfits : Fits i s) (hm : Untouched m i) :
    ∃ t, exec i s = .next t ∧ exec i (m.apply s) = .next (m.apply t) := by
  cases i with
  | ret ignored => exact ⟨_, exec_ret_of_pos ignored hfits, exec_ret_of_pos (s := m.apply s) ignored hfits⟩
  | callAddr nnn => exact ⟨_, exec_callAddr_of_lt nnn hfits, exec_callAddr_of_lt (s := m.apply s) nnn hfits⟩
  | seVxByte x kk => exact ⟨_, rfl, congrArg Host.Outcome.next (apply_skipIf m s _)⟩
  | sneVxByte x kk => exact ⟨_, rfl, congrArg Host.Outcome.next (apply_skipIf m s _)⟩
  | skpVx x =>
    refine ⟨_, exec_skpVx_of_key x hfits, ?_⟩
    rw [exec_skpVx_of_key (s := m.apply s) x hfits, apply_skipIf]
    simp only [apply_keys (hm.keys ⟨x, .inl rfl⟩)]
    rfl
  | sknpVx x =>
    refine ⟨_, exec_sknpVx_of_key x hfits, ?_⟩
    rw [exec_sknpVx_of_key (s := m.apply s) x hfits, apply_skipIf]
    simp only [apply_keys (hm.keys ⟨x, .inr rfl⟩)]
    rfl
  | drwVxVyN x y n =>
    obtain ⟨hmem, hgrid⟩ := hfits
    obtain ⟨cv, hdraw, -⟩ := drawRows_spec _ _ _ ⟨s.fb, false⟩ _ (spriteInGrid_iff.mp hgrid)
    have hrange := rangeOk_iff_spriteInMemory.mpr hmem
    exact ⟨_, exec_drwVxVyN_ok hrange hdraw, exec_drwVxVyN_ok (s := m.apply s) hrange hdraw⟩
  | ldBVx x => exact ⟨_, exec_ldBVx_of_range x hfits, exec_ldBVx_of_range (s := m.apply s) x hfits⟩
  | ldMemVx x => exact ⟨_, exec_ldMemVx_of_range x hfits, exec_ldMemVx_of_range (s := m.apply s) x hfits⟩
  | ldVxMem x =>
    refine ⟨_, exec_ldVxMem_of_range x hfits, ?_⟩
    rw [exec_ldVxMem_of_range (s := m.apply s) x hfits, ← apply_loadRegs]
    rfl
  | ldVxDt x =>
    refine ⟨_, rfl, ?_⟩
    rw [exec_ldVxDt, apply_dt (hm.dt ⟨x, .inl rfl⟩)]
    rfl
  | ldDtVx x => exact ⟨_, rfl, congrArg Host.Outcome.next (apply_setDt (hm.dt ⟨x, .inr rfl⟩) s.advance _)⟩
  | ldStVx x => exact ⟨_, rfl, congrArg Host.Outcome.next (apply_setSt (hm.st ⟨x, rfl⟩) s.advance _)⟩
  | _ => exact ⟨_, rfl, rfl⟩

/-- A change that leaves the fault registers goes through every answer, a fault included: its condition reads nothing changed. -/
theorem exec_apply (hm : Untouched m i) (hfault : m.fault = id) (hfaultPc : m.faultPc = id) (hfaultOp : m.faultOp = id)
    (h : exec i s = .next t) : exec i (m.apply s) = .next (m.apply t) := by
  rcases fits_or_executeFault i s with hfits | ⟨code, hcode⟩
  · obtain ⟨u, hu, happly⟩ := exec_effect_apply hfits hm
    cases h.symm.trans hu
    exact happly
  · cases h.symm.trans (exec_of_executeFault hcode)
    rw [exec_of_executeFault (s := m.apply s) hcode]
    simp [faulted, Change.apply, hfault, hfaultPc, hfaultOp]

end

/-- Settles O44: other latches go through every answer; other fault registers are overwritten by a fault and go through any
other answer. -/
theorem nothingReadsTheLatches : Obligations.NothingReadsTheLatches := by
  intro i s t h
  refine ⟨fun run started => ?_, fun fault faultPc faultOp ⟨code, hcode⟩ => ?_, fun fault faultPc faultOp hnone => ?_⟩
  · exact exec_apply (m := { run := fun _ => run, started := fun _ => started }) (untouched_of_id rfl rfl rfl i) rfl rfl rfl h
  · cases h.symm.trans (exec_of_executeFault hcode)
    exact exec_of_executeFault (s := { s with fault := fault, faultPc := faultPc, faultOp := faultOp }) hcode
  · obtain ⟨u, hu, happly⟩ := exec_effect_apply
      (m := { fault := fun _ => fault, faultPc := fun _ => faultPc, faultOp := fun _ => faultOp })
      (fits_of_no_executeFault (not_exists.mp hnone)) (untouched_of_id rfl rfl rfl i)
    cases h.symm.trans hu
    exact happly

/-- Settles O45: another `ST` or other `KEYS` go through every answer, and `Fx18` overwrites `ST`. -/
theorem soundAndKeysAreHidden : Obligations.SoundAndKeysAreHidden := by
  intro i s t h
  refine ⟨fun st hst => ?_, ?_, fun keys hkeys => ?_⟩
  · exact exec_apply (m := { st := fun _ => st }) ⟨fun _ => rfl, fun _ => rfl, fun h => absurd h hst⟩ rfl rfl rfl h
  · rintro st ⟨x, rfl⟩
    cases h
    rfl
  · exact exec_apply (m := { keys := fun _ => keys }) ⟨fun h => absurd h hkeys, fun _ => rfl, fun _ => rfl⟩ rfl rfl rfl h

/-- Settles O46: a TICK that is enabled is a change of the timers, and one that is not is none. -/
theorem tickCommutesWithOtherInstructions : Obligations.TickCommutesWithOtherInstructions := by
  intro i s t h htimer
  have hrun : t.run = s.run := by
    obtain ⟨-, -, -, -, -, -, -, -, -, -, -, hrun, -⟩ := Writers.eachFieldHasItsWriters i s t h
    exact hrun
  cases hticks : s.run with
  | false => rwa [tickEvent_of_run_false hticks, tickEvent_of_run_false (hrun.trans hticks)]
  | true =>
    have huntouched : Untouched { dt := countDown, st := countDown } i :=
      ⟨fun _ => rfl, fun ⟨x, hx⟩ => absurd ⟨x, hx.imp_right .inl⟩ htimer,
        fun ⟨x, hx⟩ => absurd ⟨x, .inr (.inr hx)⟩ htimer⟩
    rw [tickEvent_of_run hticks, tickEvent_of_run (hrun.trans hticks)]
    exact exec_apply huntouched rfl rfl rfl h

end Sys2Proof.Noninterference

/-! The invariant of reachable states: the statements about `State.Inv`, and the run of steps. -/

namespace Sys2Proof.Invariant

open Sys2Proof.Machine Sys2Proof.Claims Sys2Proof.ControlTransfer Sys2Proof.IndexMemory Sys2Proof.Display Sys2Proof.KeysTimers
  Sys2Proof.HostEvents Sys2Proof.Effects

/-! An instruction keeps the ranges of memory, `I`, `PC` and the stack (R17, R27). -/

section
variable {i : Instr} {s t : State}

theorem exec_mem_wf (hwf : Memory.wf s.mem = true) (h : exec i s = .next t) : Memory.wf t.mem = true := by
  by_cases hsame : t.mem = s.mem
  · rwa [hsame]
  · obtain ⟨-, -, -, -, -, -, -, hwriters, -⟩ := Writers.eachFieldHasItsWriters i s t h
    rcases hwriters hsame with ⟨x, rfl⟩ | ⟨x, rfl⟩
    · cases (exec_ldBVx x s).symm.trans h
      split_ifs with hrange
      · exact Memory.wf_writeBytes hwf (Nat.succ_le_succ (rangeOk_succ_iff.mp hrange))
      · exact hwf
    · cases (exec_ldMemVx x s).symm.trans h
      split_ifs with hrange
      · have hfits := rangeOk_succ_iff.mp hrange
        exact Memory.wf_writeBytes hwf (by rw [State.firstRegs_length]; exact Nat.succ_le_succ hfits)
      · exact hwf

theorem exec_i_le (hi : s.i.toNat ≤ 0xFFF) (h : exec i s = .next t) : t.i.toNat ≤ 0xFFF := by
  by_cases hsame : t.i = s.i
  · rwa [hsame]
  · obtain ⟨-, hwriters, -⟩ := Writers.eachFieldHasItsWriters i s t h
    rcases hwriters hsame with ⟨nnn, rfl⟩ | ⟨x, rfl⟩
    · cases h
      have hnnn := nnn.isLt
      rw [State.setI_i, zextAddr_toNat]
      omega
    · cases h
      have hbyte := (s.readV x).isLt
      rw [State.setI_i, State.advance_readV, glyphAddress_toNat]
      omega

theorem advance_pc_le (hpc : s.pc.toNat ≤ 0xFFE) : (s.pc + 2).toNat ≤ 0x1000 := by
  rw [← State.advance_pc, State.advance_pc_toNat]
  omega

theorem exec_stack_le (hpc : s.pc.toNat ≤ 0xFFE) (hstack : ∀ k : Fin 16, s.stack[k.val].toNat ≤ 0x1000)
    (h : exec i s = .next t) (k : Fin 16) : t.stack[k.val].toNat ≤ 0x1000 := by
  by_cases hsame : t.stack = s.stack
  · simpa only [hsame] using hstack k
  · obtain ⟨-, -, -, hwriters, -⟩ := Writers.eachFieldHasItsWriters i s t h
    obtain ⟨nnn, rfl⟩ := hwriters hsame
    cases (exec_callAddr nnn s).symm.trans h
    split_ifs with hroom
    · rw [Vector.getElem_set]
      split_ifs with hk
      · exact advance_pc_le hpc
      · exact hstack k
    · exact hstack k

/-- Where an instruction that does not fault leaves `PC` (R82, R87, R90 to R92). -/
def NextPc (s : State) (w : Word) : Prop :=
  w = s.pc + 2 ∨ w = s.pc + 2 + 2 ∨ (∃ nnn, w = zextAddr nnn) ∨ ∃ k : Fin 16, w = s.stack[k.val]

theorem nextPc_skipIf (s : State) (taken : Bool) : NextPc s (s.advance.skipIf taken).pc := by
  cases taken with
  | false => exact .inl rfl
  | true => exact .inr (.inl rfl)

theorem exec_nextPc (hfits : Fits i s) : ∃ t, exec i s = .next t ∧ NextPc s t.pc := by
  cases i with
  | ret ignored =>
    exact ⟨_, exec_ret_of_pos ignored hfits, .inr (.inr (.inr ⟨⟨s.sp.val - 1, by omega⟩, rfl⟩))⟩
  | jpAddr nnn => exact ⟨_, rfl, .inr (.inr (.inl ⟨nnn, rfl⟩))⟩
  | callAddr nnn => exact ⟨_, exec_callAddr_of_lt nnn hfits, .inr (.inr (.inl ⟨nnn, rfl⟩))⟩
  | seVxByte x kk => exact ⟨_, rfl, nextPc_skipIf s _⟩
  | sneVxByte x kk => exact ⟨_, rfl, nextPc_skipIf s _⟩
  | skpVx x => exact ⟨_, exec_skpVx_of_key x hfits, nextPc_skipIf s _⟩
  | sknpVx x => exact ⟨_, exec_sknpVx_of_key x hfits, nextPc_skipIf s _⟩
  | drwVxVyN x y n =>
    obtain ⟨cv, hexec, -⟩ := exec_drwVxVyN_drawn hfits.1 hfits.2
    exact ⟨_, hexec, .inl rfl⟩
  | ldBVx x => exact ⟨_, exec_ldBVx_of_range x hfits, .inl rfl⟩
  | ldMemVx x => exact ⟨_, exec_ldMemVx_of_range x hfits, .inl rfl⟩
  | ldVxMem x => exact ⟨_, exec_ldVxMem_of_range x hfits, .inl (State.loadRegs_pc ..)⟩
  | _ => exact ⟨_, rfl, .inl rfl⟩

theorem nextPc_le {w : Word} (hpc : s.pc.toNat ≤ 0xFFE) (hstack : ∀ k : Fin 16, s.stack[k.val].toNat ≤ 0x1000)
    (hw : NextPc s w) : w.toNat ≤ 0x1002 := by
  have hadvance := advance_pc_le hpc
  rcases hw with rfl | rfl | ⟨nnn, rfl⟩ | ⟨k, rfl⟩
  · omega
  · rw [BitVec.toNat_add]
    exact (Nat.mod_le ..).trans (Nat.add_le_add_right hadvance 2)
  · have hnnn := nnn.isLt
    rw [zextAddr_toNat]
    omega
  · exact (hstack k).trans (by decide)

theorem exec_pc_le (hpc : s.pc.toNat ≤ 0xFFE) (hstack : ∀ k : Fin 16, s.stack[k.val].toNat ≤ 0x1000)
    (h : exec i s = .next t) : t.pc.toNat ≤ 0x1002 := by
  rcases fits_or_executeFault i s with hfits | ⟨code, hcode⟩
  · obtain ⟨u, hu, hnext⟩ := exec_nextPc hfits
    cases h.symm.trans hu
    exact nextPc_le hpc hstack hnext
  · cases h.symm.trans (exec_of_executeFault hcode)
    exact hpc.trans (by decide)

end

/-! The invariant goes through a fault, an instruction, a STEP and every other event. -/

section
variable {s t : State}

theorem inv_takeFault (hinv : s.Inv) (hstarted : s.started = true) (cause : FaultCode) (op : Word) :
    (s.takeFault cause op).Inv :=
  { hinv with
    fault_ne_seven := FaultCode.toBits_ne_seven cause
    fault_started := fun _ => hstarted
    fault_pc := fun _ => rfl
    no_fault_regs := fun h => absurd h (FaultCode.toBits_ne_zero cause) }

theorem inv_exec {i : Instr} (hinv : s.Inv) (hrun : s.run = true) (hclear : s.fault = 0) (hpc : s.pc.toNat ≤ 0xFFE)
    (h : exec i s = .next t) : t.Inv := by
  have hstarted : s.started = true := hinv.run_started hrun
  rcases exec_latches h with hkept | ⟨cause, -, rfl⟩
  · have hclear' : t.fault = 0 := hkept.fault.trans hclear
    obtain ⟨hfaultPc, hfaultOp⟩ := hinv.no_fault_regs hclear
    exact
      { mem_wf := exec_mem_wf hinv.mem_wf h
        i_le := exec_i_le hinv.i_le h
        pc_le := exec_pc_le hpc hinv.stack_le h
        stack_le := exec_stack_le hpc hinv.stack_le h
        fault_ne_seven := by rw [hclear']; decide
        run_started := fun _ => hkept.started.trans hstarted
        fault_started := fun _ => hkept.started.trans hstarted
        fault_pc := fun hfault => absurd hclear' hfault
        no_fault_regs := fun _ => ⟨hkept.faultPc.trans hfaultPc, hkept.faultOp.trans hfaultOp⟩ }
  · exact inv_takeFault hinv hstarted cause _

theorem inv_stepEvent (hinv : s.Inv) (h : stepEvent s = .next t) : t.Inv := by
  rcases stepEvent_cases h with ⟨-, rfl⟩ | ⟨henabled, -, rfl⟩ | ⟨henabled, hpc, hexec⟩
  · exact hinv
  · exact inv_takeFault hinv (hinv.run_started (State.stepEnabled_iff.mp henabled).1) _ _
  · obtain ⟨hrun, hclear⟩ := State.stepEnabled_iff.mp henabled
    exact inv_exec hinv hrun hclear hpc hexec

theorem inv_reset : State.reset.Inv where
  mem_wf := Memory.wf_nil
  i_le := by decide
  pc_le := by decide
  stack_le := by decide
  fault_ne_seven := by decide
  run_started := fun h => h
  fault_started := fun h => absurd rfl h
  fault_pc := fun h => absurd rfl h
  no_fault_regs := fun _ => ⟨rfl, rfl⟩

theorem inv_loadEvent (hinv : s.Inv) (base : Nat) (bytes : List Byte) : (loadEvent base bytes s).Inv := by
  cases hstarted : s.started with
  | true => rwa [loadEvent_of_started hstarted]
  | false =>
    rcases Nat.lt_or_ge 4096 (base + bytes.length) with hover | hfits
    · rwa [loadEvent_of_overflow hstarted hover]
    · rw [loadEvent_of_fits hstarted hfits]
      exact { hinv with mem_wf := Memory.wf_writeBytes hinv.mem_wf hfits }

theorem inv_tickEvent (hinv : s.Inv) : (tickEvent s).Inv := by
  cases hrun : s.run with
  | true =>
    rw [tickEvent_of_run hrun]
    exact { hinv with }
  | false => rwa [tickEvent_of_run_false hrun]

theorem inv_applyEvent {e : Event} (hinv : s.Inv) (h : applyEvent e s = .next t) : t.Inv := by
  cases e with
  | reset => cases h; exact { inv_reset with }
  | load base bytes => cases h; exact inv_loadEvent hinv base.val bytes
  | start => cases h; exact { hinv with run_started := fun _ => rfl, fault_started := fun _ => rfl }
  | stop => cases h; exact { hinv with run_started := fun hrun => absurd hrun Bool.false_ne_true }
  | setKey index pressed => cases h; exact { hinv with }
  | step => exact inv_stepEvent hinv h
  | tick => cases h; exact inv_tickEvent hinv

theorem inv_dropEvent (hinv : s.Inv) : s.dropEvent.Inv := { hinv with }

end

/-- Settles O50: a step is an event on the state without it in the schedule, which the invariant says nothing of. -/
theorem stepKeepsInv : Obligations.StepKeepsInv := fun _ _ hinv h => inv_applyEvent (inv_dropEvent hinv) h

/-- Settles O51: every field of the state right after reset is in its range. -/
theorem resetMeetsInv : Obligations.ResetMeetsInv := inv_reset

/-! A run, step by step (R86, R160). -/

/-- Settles O8: every event but STEP answers by definition, and STEP by `stepEvent_answers`. -/
theorem everyStepAnswersNext : Obligations.EveryStepAnswersNext := by
  intro s
  rw [step]
  cases s.nextEvent with
  | step => exact stepEvent_answers s.dropEvent
  | _ => exact ⟨_, rfl⟩

theorem run_succ {s t : State} (h : step s = .next t) (k : Nat) :
    Sys2Proof.core.run (k + 1) s = Sys2Proof.core.run k t := by
  have hcore : Sys2Proof.core.step s = .next t := h
  simp only [Host.Core.run, hcore]

/-- A property that every step keeps holds at the end of every run from a state that has it. -/
theorem run_keeps {P : State → Prop} (hstep : ∀ s t, P s → step s = .next t → P t) {k : Nat} {s t : State} (hs : P s)
    (h : Sys2Proof.core.run k s = .next t) : P t := by
  induction k generalizing s with
  | zero => cases h; exact hs
  | succ k ih =>
    obtain ⟨u, hu⟩ := everyStepAnswersNext s
    rw [run_succ hu] at h
    exact ih (hstep s u hs hu) h

/-- Settles O52: the invariant holds at the start, whatever the schedule, and every step keeps it. -/
theorem reachableStatesMeetInv : Obligations.ReachableStatesMeetInv := by
  intro events k t h
  have hstart : ({ State.reset with schedule := events } : State).Inv := { inv_reset with }
  exact run_keeps stepKeepsInv hstart h

end Sys2Proof.Invariant

/-! RESET again: the two inputs it keeps. -/

namespace Sys2Proof.ResetState

open Sys2Proof.Machine

/-- Settles O13: the answer is `resetEvent`, which is this state by definition. -/
theorem resetKeepsOnlyTheInputs : Obligations.ResetKeepsOnlyTheInputs := fun _ => rfl

end Sys2Proof.ResetState

/-! The step again: the schedule, the decoded instruction, the finished program and the delay timer. -/

namespace Sys2Proof.StepCycle

open Sys2Proof.Machine Sys2Proof.Claims Sys2Proof.HostEvents Sys2Proof.DecodeEncode Sys2Proof.Invariant

section
variable {s t : State}

/-! The schedule (R160). -/

theorem step_of_cons {e : Event} {events : List Event} (h : s.schedule = e :: events) :
    step s = applyEvent e { s with schedule := events } := by
  rw [step, State.nextEvent, State.dropEvent, h]
  rfl

theorem dropEvent_of_nil (h : s.schedule = []) : s.dropEvent = s := by
  rw [State.dropEvent, h, List.tail_nil, ← h]

theorem step_of_nil (h : s.schedule = []) : step s = stepEvent s := by
  rw [step, State.nextEvent, h, dropEvent_of_nil h]
  rfl

/-- An enabled STEP with `PC` in range is `exec` of what the two bytes at `PC` decode to (R81, R83). -/
theorem stepEvent_of_decode {i : Instr} {rest : List Byte} (hrun : s.run = true) (hclear : s.fault = 0)
    (hpc : s.pc.toNat ≤ 0xFFE)
    (hdecode : decode [s.loadByte s.pc.toNat, s.loadByte (s.pc.toNat + 1)] = .ok (i, rest)) :
    i.wellFormed = true ∧ stepEvent s = exec i s := by
  rw [decode_two] at hdecode
  cases hdecode
  exact ⟨wellFormed_decodeWord _, stepEvent_fetched (State.stepEnabled_iff.mpr ⟨hrun, hclear⟩) (State.fetch_of_le hpc)⟩

end

/-- Settles O5: the step takes the head of the schedule off, and a STEP decodes what it fetched. -/
theorem stepRunsDecodedInstruction : Obligations.StepRunsDecodedInstruction := by
  refine ⟨fun _ _ _ => step_of_cons, fun _ => step_of_nil, fun s i rest hnil hrun hclear hpc hdecode => ?_,
    fun s events i rest hcons hrun hclear hpc hdecode => ?_⟩
  · rw [step_of_nil hnil]
    exact stepEvent_of_decode hrun hclear hpc hdecode
  · rw [step_of_cons hcons]
    exact stepEvent_of_decode (s := { s with schedule := events }) hrun hclear hpc hdecode

/-! The finished program (R213). -/

/-- Settles O48: stopped, the STEP is ignored; running, it is the jump to `PC` itself. -/
theorem finishedIsAFixedPoint : Obligations.FinishedIsAFixedPoint := by
  rintro s ⟨hclear, hpc, nnn, htarget, hword⟩
  cases hrun : s.run with
  | false => exact stepEvent_of_run_false hrun
  | true =>
    have henabled : s.stepEnabled = true := State.stepEnabled_iff.mpr ⟨hrun, hclear⟩
    rw [stepEvent_fetched henabled (State.fetch_of_le hpc), hword, decodeWord_encode rfl, exec_jpAddr, htarget]
    rfl

/-! The delay timer over a run (R171). -/

section
variable {s t : State}

/-- A STEP that fetches no `Fx15` leaves `DT`, and every STEP leaves `RUN` and the schedule. -/
theorem stepEvent_keeps_dt (hword : ∀ x, decodeWord (wordAtPc s) ≠ .ldDtVx x) (h : stepEvent s = .next t) :
    t.dt = s.dt ∧ t.run = s.run ∧ t.schedule = s.schedule := by
  rcases stepEvent_cases h with ⟨-, rfl⟩ | ⟨-, -, rfl⟩ | ⟨-, -, hexec⟩
  · exact ⟨rfl, rfl, rfl⟩
  · exact ⟨rfl, rfl, rfl⟩
  · obtain ⟨-, -, -, -, hdt, -, -, -, -, -, -, hrun, -, hschedule⟩ := Writers.eachFieldHasItsWriters _ s t hexec
    have hkept : t.dt = s.dt := of_not_not fun hne => (hdt hne).elim hword
    exact ⟨hkept, hrun, hschedule⟩

/-- One step of a run without an `Fx15`: only TICK lowers `DT`, by one. -/
theorem step_dt (hrun : s.run = true) (hnone : NoDelayWrite 1 s) (h : step s = .next t) :
    t.run = true ∧ t.schedule = s.schedule.tail ∧
      t.dt.toNat = s.dt.toNat - if s.nextEvent = .tick then 1 else 0 := by
  rw [step] at h
  rcases hnone.1 with htick | ⟨index, pressed, hkey⟩ | ⟨hstep, hword⟩
  · rw [htick] at h ⊢
    cases h
    rw [tickEvent_of_run (s := s.dropEvent) hrun]
    exact ⟨hrun, rfl, countDown_toNat s.dt⟩
  · rw [hkey] at h ⊢
    cases h
    exact ⟨hrun, rfl, rfl⟩
  · rw [hstep] at h ⊢
    obtain ⟨hdt, hrun', hschedule⟩ := stepEvent_keeps_dt (s := s.dropEvent) hword h
    exact ⟨hrun'.trans hrun, hschedule, congrArg BitVec.toNat hdt⟩

end

theorem count_tick_take_succ (events : List Event) (k : Nat) : (events.take (k + 1)).count .tick =
    (if events.headD .step = .tick then 1 else 0) + (events.tail.take k).count .tick := by
  cases events with
  | nil => simp
  | cons e rest => simp [List.count_cons, Nat.add_comm]

/-- Settles O17: by induction on the number of steps, each of which takes one event off the schedule. -/
theorem delayTimerDecaysByTicks : Obligations.DelayTimerDecaysByTicks := by
  intro k
  induction k with
  | zero =>
    intro s t _ _ h
    cases h
    rfl
  | succ k ih =>
    intro s t hrun hnone h
    obtain ⟨u, hu⟩ := everyStepAnswersNext s
    rw [run_succ hu] at h
    obtain ⟨hevent, hnext⟩ := hnone
    obtain ⟨hrun', hschedule, hdt⟩ := step_dt hrun ⟨hevent, fun _ _ => trivial⟩ hu
    rw [ih u t hrun' (hnext u hu) h, hschedule, hdt, count_tick_take_succ, Nat.sub_sub]
    rfl

end Sys2Proof.StepCycle

/-! Random: the statement about R111. -/

namespace Sys2Proof.Alu

open Sys2Proof.Machine Sys2Proof.Claims Sys2Proof.OpcodeRows

/-- Settles O29: the answer is the advanced state with the masked byte written and the draw counted. -/
theorem randomIsMasked : Obligations.RandomIsMasked := by
  refine ⟨rowXKK decodeWord_familyC fun _ _ => rfl, fun x kk s => ?_⟩
  have hread : ((s.advance.writeV x (s.randomByte &&& kk)).nextDraw).readV x = Config.randomByte s.draws &&& kk :=
    readV_writeV_self s.advance x _
  obtain ⟨hkeeps, hpc, -⟩ := advance_writeV_frame s x (s.randomByte &&& kk)
  refine ⟨_, exec_rndVxByte x kk s, fun b => ?_, ?_, rfl, hkeeps, hpc, rfl, fun _ => rfl⟩
  · rw [hread, BitVec.getLsbD_and]
  · rw [hread, BitVec.and_assoc, BitVec.and_not_self]
    exact BitVec.and_zero

end Sys2Proof.Alu

/-! Memory transfer again: the round trip of R124, and stored code (R52). -/

namespace Sys2Proof.IndexMemory

open Sys2Proof.Machine Sys2Proof.Claims

/-- What `Fx55` leaves in memory, and that it leaves `I` (R123, R125). -/
theorem exec_ldMemVx_stored {x : Reg} {s t : State} (hrange : s.i.toNat + x.val ≤ 4095) (hwf : Memory.wf s.mem = true)
    (h : exec (.ldMemVx x) s = .next t) :
    t.i = s.i ∧ ∀ k : Reg, k ≤ x → t.loadByte (s.i.toNat + k.val) = s.readV k := by
  obtain ⟨u, hu, hbytes, honly, -⟩ := (storeRegisters.2 x s).1 hrange hwf
  cases h.symm.trans hu
  exact ⟨(congrArg State.i honly.1 :), hbytes⟩

/-- Settles O35: the bytes that `Fx65` loads are those that `Fx55` stored. -/
theorem dumpThenLoadRestores : Obligations.DumpThenLoadRestores := by
  intro x s t t' hrange hwf h hmem hi
  obtain ⟨hti, hbytes⟩ := exec_ldMemVx_stored hrange hwf h
  have hbase : t'.i = s.i := hi.trans hti
  obtain ⟨u, hu, hloaded, -⟩ := (loadRegisters.2 x t').1 (hbase.symm ▸ hrange)
  refine ⟨u, hu, fun k hk => ?_⟩
  rw [hloaded k hk, ← hbytes k hk, hbase, State.loadByte, hmem]
  rfl

/-- Settles O36: the two bytes at the address are two registers stored next to each other. -/
theorem storedWordIsFetched : Obligations.StoredWordIsFetched := by
  intro x k s t hrange hwf h hk a ha
  obtain ⟨-, hbytes⟩ := exec_ldMemVx_stored hrange hwf h
  have hlt : k.val < x.val := hk
  have hnext : (k + 1).val = k.val + 1 := Fin.val_add_one_of_lt' (by omega)
  have hhigh : t.loadByte a.toNat = s.readV k := ha ▸ hbytes k hk.le
  have hlow : t.loadByte (a.toNat + 1) = s.readV (k + 1) := by
    rw [ha, Nat.add_assoc, ← hnext]
    exact hbytes (k + 1) (by rw [Fin.le_def, hnext]; exact hlt)
  refine ⟨_, State.fetch_of_le (s := t.setPc a) (by rw [State.setPc_pc]; omega), ?_⟩
  rw [wordOfBytes_toNat, State.setPc_loadByte, State.setPc_loadByte, State.setPc_pc, hhigh, hlow]

end Sys2Proof.IndexMemory

/-! Display again: the same draw twice (R133). -/

namespace Sys2Proof.Display

open Sys2Proof.Machine Sys2Proof.Claims

/-- A set bit of a sprite in the grid covers a pixel. -/
theorem exists_covered {s : State} {x y : Reg} {n : BitVec 4} (hgrid : SpriteInGrid s x y n)
    (hset : ∃ r c, SpriteBitSet s n r c) : ∃ px py, SpriteCovers s x y n px py := by
  obtain ⟨r, c, hbit⟩ := hset
  obtain ⟨hx, hy⟩ := hgrid r c hbit
  exact ⟨⟨_, Nat.lt_succ_of_le hx⟩, ⟨_, Nat.lt_succ_of_le hy⟩, r, c, hbit, rfl, rfl⟩

/-- A bit turned over twice under the same condition is as before. -/
theorem turned_twice_iff (p c : Prop) : ¬ (¬ (p ↔ c) ↔ c) ↔ p := by
  by_cases hc : c
  · simp [hc]
  · simp [hc]

theorem drawn_flag_zero (s : State) {cv : Canvas} (h : ¬ cv.coll = true) : ((drawn s cv).readV 0xF).toNat = 0 := by
  rw [drawn_flag_toNat, if_neg h]

theorem drawn_flag_one (s : State) {cv : Canvas} (h : cv.coll = true) : ((drawn s cv).readV 0xF).toNat = 1 := by
  rw [drawn_flag_toNat, if_pos h]

/-- Settles O39: the second draw finds the same sprite in memory and in the grid, so a covered pixel is turned over twice, and
collides in the second draw if it was clear before the first. -/
theorem drawTwiceRestores : Obligations.DrawTwiceRestores := by
  intro x y n s t _ h ht
  obtain ⟨hmem, hgrid⟩ := Writers.sprite_fits_of_no_fault h ht
  obtain ⟨cv, hexec, hpixels, hcoll⟩ := exec_drwVxVyN_drawn hmem hgrid
  cases h.symm.trans hexec
  obtain ⟨cv', hexec', hpixels', hcoll'⟩ :=
    exec_drwVxVyN_drawn (s := { drawn s cv with v := s.v }) (x := x) (y := y) (n := n) hmem hgrid
  have hrestored (px : Fin 64) (py : Fin 32) :
      (drawn { drawn s cv with v := s.v } cv').pixelRead px py = s.pixelRead px py := by
    have hsecond : (drawn { drawn s cv with v := s.v } cv').pixelRead px py = true ↔
        ¬ ((drawn s cv).pixelRead px py = true ↔ SpriteCovers s x y n px py) := hpixels' px py
    rw [Bool.eq_iff_iff, hsecond, hpixels]
    exact turned_twice_iff _ _
  refine ⟨_, hexec', Framebuffer.ext_pixel fun px py hx hy => hrestored ⟨px, hx⟩ ⟨py, hy⟩, fun hclear => ⟨?_, fun hset => ?_⟩,
    fun hempty => ?_⟩
  · refine drawn_flag_zero s (mt hcoll.mp ?_)
    rintro ⟨px, py, hcovers, hpixel⟩
    exact Bool.false_ne_true ((hclear px py hcovers).symm.trans hpixel)
  · obtain ⟨px, py, hcovers⟩ := exists_covered hgrid hset
    have hturned : (drawn s cv).pixelRead px py = true := by
      rw [hpixels, hclear px py hcovers]
      exact fun hiff => Bool.false_ne_true (hiff.mpr hcovers)
    exact drawn_flag_one _ (hcoll'.mpr ⟨px, py, hcovers, hturned⟩)
  · have hnone (px : Fin 64) (py : Fin 32) : ¬ SpriteCovers s x y n px py := fun ⟨r, c, hbit, _⟩ => hempty ⟨r, c, hbit⟩
    exact ⟨drawn_flag_zero s (mt hcoll.mp fun ⟨px, py, hcovers, _⟩ => hnone px py hcovers),
      drawn_flag_zero _ (mt hcoll'.mp fun ⟨px, py, hcovers, _⟩ => hnone px py hcovers)⟩

end Sys2Proof.Display

/-! Nested calls: the statement about the stack discipline of R90 and R92. -/

namespace Sys2Proof.NestedCalls

open Sys2Proof.Machine Sys2Proof.Claims Sys2Proof.ControlTransfer

theorem execAll_cons_of_next {i : Instr} {s t : State} (h : exec i s = .next t) (rest : List Instr) :
    execAll (i :: rest) s = execAll rest t := by
  simp only [execAll, h]

theorem execAll_append_of_next {first rest : List Instr} {s t : State} (h : execAll first s = .next t) :
    execAll (first ++ rest) s = execAll rest t := by
  induction first generalizing s with
  | nil => cases h; rfl
  | cons i first ih =>
    obtain ⟨u, hu, -⟩ := exec_answers i s
    rw [execAll_cons_of_next hu] at h
    rw [List.cons_append, execAll_cons_of_next hu, ih h]

/-- The addresses that nested calls from `s` save, in order: each call is made from the target of the one before. -/
def savedAddresses (s : State) (targets : List (BitVec 12)) : List Word := (s.pc :: targets.map zextAddr).map (· + 2)

/-- Nested calls with room raise `SP` by their number, save their return addresses upwards from `SP`, and leave the entries
below `SP` as they were. -/
theorem execAll_calls (targets : List (BitVec 12)) {s : State} (hroom : s.sp.val + targets.length ≤ 16) :
    ∃ u, execAll (targets.map .callAddr) s = .next u ∧ u.sp.val = s.sp.val + targets.length ∧
      (∀ j, j < s.sp.val → u.stack[j]? = s.stack[j]?) ∧
      ∀ j, j < targets.length → u.stack[s.sp.val + j]? = (savedAddresses s targets)[j]? := by
  induction targets generalizing s with
  | nil => exact ⟨s, rfl, rfl, fun _ _ => rfl, fun j hj => absurd hj (Nat.not_lt_zero j)⟩
  | cons nnn targets ih =>
    rw [List.length_cons] at hroom
    have hlt : s.sp.val < 16 := by omega
    have hcall := exec_callAddr_of_lt nnn hlt
    obtain ⟨u, hu, hsp, hbelow, habove⟩ := ih (s :=
      { s with stack := s.stack.set s.sp.val (s.pc + 2), sp := ⟨s.sp.val + 1, by omega⟩, pc := zextAddr nnn })
      (by simp only; omega)
    refine ⟨u, (execAll_cons_of_next hcall _).trans hu, by simp only [hsp, List.length_cons]; omega, fun j hj => ?_,
      fun j hj => ?_⟩
    · rw [hbelow j (Nat.lt_succ_of_lt hj), Vector.getElem?_set_ne hlt hj.ne']
    · cases j with
      | zero =>
        rw [Nat.add_zero, hbelow s.sp.val (Nat.lt_succ_self _), Vector.getElem?_set_self]
        rfl
      | succ j =>
        have hentry := habove j (Nat.lt_of_succ_lt_succ hj)
        simpa [savedAddresses, Nat.add_assoc, Nat.add_comm 1 j] using hentry

/-- Returns lower `SP` by their number, and the last of them goes to the entry that `SP` then points at. -/
theorem execAll_returns (ignored : BitVec 4) (m : Nat) {s : State} (hm : m + 1 ≤ s.sp.val) :
    ∃ u, execAll (List.replicate (m + 1) (.ret ignored)) s = .next u ∧ u.sp.val + (m + 1) = s.sp.val ∧
      s.stack[u.sp.val]? = some u.pc := by
  have hret := exec_ret_of_pos ignored (s := s) (by omega)
  induction m generalizing s with
  | zero =>
    refine ⟨_, execAll_cons_of_next hret [], ?_, Vector.getElem?_eq_getElem _⟩
    simp only
    omega
  | succ m ih =>
    have hpos : m + 1 ≤ s.sp.val - 1 := by omega
    obtain ⟨u, hu, hsp, hpc⟩ := ih (s := { s with sp := ⟨s.sp.val - 1, by omega⟩, pc := s.stack[s.sp.val - 1] }) hpos
      (exec_ret_of_pos ignored (by simp only; omega))
    exact ⟨u, (execAll_cons_of_next hret _).trans hu, by simp only at hsp; omega, hpc⟩

/-- Settles O47: the calls fill the stack from `SP` up, the returns read it from the top down. -/
theorem nestedCallsReturnInOrder : Obligations.NestedCallsReturnInOrder := by
  intro targets ignored s m hroom hm hle
  obtain ⟨m, rfl⟩ := Nat.exists_eq_add_of_le' hm
  obtain ⟨t, hcalls, htsp, -, hsaved⟩ := execAll_calls targets hroom
  obtain ⟨u, hreturns, husp, hpc⟩ := execAll_returns ignored m (s := t) (by omega)
  refine ⟨u, (execAll_append_of_next hcalls).trans hreturns, by omega, ?_⟩
  have hentry : u.sp.val = s.sp.val + (targets.length - (m + 1)) := by omega
  rw [hentry, hsaved _ (by omega), savedAddresses, List.getElem?_map] at hpc
  exact hpc

end Sys2Proof.NestedCalls

/-! The canonical form of memory: equal bytes, equal lists. -/

namespace Sys2Proof.CanonicalMemory

open Sys2Proof.Machine

/-- The canonical form of a list from its first cell. -/
theorem wfFrom_cons_iff {lo b : Nat} {w : Byte} {rest : Memory} : Memory.wfFrom lo ((b, w) :: rest) = true ↔
    lo ≤ b ∧ b < Config.memSize ∧ w ≠ Memory.resetByte b ∧ Memory.wfFrom (b + 1) rest = true := by
  simp [Memory.wfFrom, and_assoc]

theorem read_cons_self (b : Nat) (w : Byte) (rest : Memory) : Memory.read ((b, w) :: rest) b = w := by
  rw [Memory.read_cons, if_pos rfl]

/-- The first cell of a canonical list is seen by reading: a canonical list that reads the same starts no higher. -/
theorem first_le_of_read_eq {lo b c : Nat} {w : Byte} {rest m : Memory} (h : Memory.wfFrom lo ((b, w) :: rest) = true)
    (hm : Memory.wfFrom c m = true) (hread : ∀ a, Memory.read ((b, w) :: rest) a = Memory.read m a) : c ≤ b := by
  obtain ⟨-, -, hw, -⟩ := wfFrom_cons_iff.mp h
  by_contra hlt
  have hb := hread b
  rw [read_cons_self, Memory.read_below hm (Nat.lt_of_not_le hlt)] at hb
  exact hw hb

theorem wfFrom_first {lo b : Nat} {w : Byte} {rest : Memory} (h : Memory.wfFrom lo ((b, w) :: rest) = true) :
    Memory.wfFrom b ((b, w) :: rest) = true := by
  obtain ⟨-, hrest⟩ := wfFrom_cons_iff.mp h
  exact wfFrom_cons_iff.mpr ⟨le_rfl, hrest⟩

theorem eq_of_read_eq {lo lo' : Nat} {m m' : Memory} (h : Memory.wfFrom lo m = true) (h' : Memory.wfFrom lo' m' = true)
    (hread : ∀ a, Memory.read m a = Memory.read m' a) : m = m' := by
  induction m generalizing lo lo' m' with
  | nil =>
    cases m' with
    | nil => rfl
    | cons cell rest' =>
      have hle := first_le_of_read_eq (c := cell.1 + 1) h' rfl fun a => (hread a).symm
      omega
  | cons cell rest ih =>
    obtain ⟨b, w⟩ := cell
    cases m' with
    | nil =>
      have hle := first_le_of_read_eq (c := b + 1) h rfl hread
      omega
    | cons cell' rest' =>
      obtain ⟨b', w'⟩ := cell'
      have hb : b = b' := Nat.le_antisymm (first_le_of_read_eq h' (wfFrom_first h) fun a => (hread a).symm)
        (first_le_of_read_eq h (wfFrom_first h') hread)
      subst hb
      have hw : w = w' := by simpa only [read_cons_self] using hread b
      obtain ⟨-, -, -, hrest⟩ := wfFrom_cons_iff.mp h
      obtain ⟨-, -, -, hrest'⟩ := wfFrom_cons_iff.mp h'
      have hreadRest (a : Nat) : Memory.read rest a = Memory.read rest' a := by
        rcases Nat.lt_or_ge b a with ha | ha
        · simpa only [Memory.read_cons, if_neg ha.ne'] using hread a
        · rw [Memory.read_below hrest (Nat.lt_succ_of_le ha), Memory.read_below hrest' (Nat.lt_succ_of_le ha)]
      rw [hw, ih hrest hrest' hreadRest]

/-- Settles O49: by induction on the first memory, from the lowest listed address up. -/
theorem canonicalMemoriesAreEqual : Obligations.CanonicalMemoriesAreEqual := fun _ _ h h' hread => eq_of_read_eq h h' hread

end Sys2Proof.CanonicalMemory
